-- ==== Sys2Proof/Word.lean ====
section
/-! DEFINITION. The data words of the block: bytes, slot indices and the 14-byte buffers (00_scope.md R10, 10_state.md
R20, R23). A bit is a `Bool`: true is 1, the level the spec calls raised or high (10_state.md R26). -/

namespace Sys2Proof

/-- "A byte is an unsigned 8-bit value" (R10); bit i of `b` is `b.getLsbD i`. -/
abbrev Byte := BitVec 8

/-- The slot space `h` in 0..13 (20_memory.md R40 b): the index of a byte of SEG or XFER. -/
abbrev Slot := Fin 14

/-- A position p in 0..9, 0 leftmost (20_memory.md R40 a, R41). -/
abbrev Position := Fin 10

/-- The contents of SEG or of XFER: exactly 14 bytes (R20, R23). -/
abbrev Buffer := Vector Byte 14

end Sys2Proof
end

