-- ==== Sys2Proof/Syntax.lean ====
section
/-! DEFINITION. The five commands (30_encoding.md R60), one constructor per row of spec/opcode_table.json. -/

namespace Sys2Proof

/-- The abstract commands `Cmd` of R60. -/
inductive Instr where
  /-- INIT (43_init.md R135). -/
  | init
  /-- CLEAR (40_framebuffer.md R84). -/
  | clear
  /-- SETCHAR: position, character code, decimal-point request (R86). -/
  | setchar (pos c : Byte) (dp : Bool)
  /-- PRINT: start position and the text, of length n in 0..255 (R87, R66). -/
  | print (start : Byte) (text : List Byte)
  /-- REFRESH (42_serial.md R119). -/
  | refresh
deriving DecidableEq, Repr

end Sys2Proof
end

