-- ==== Sys2Proof/WellFormed.lean ====
section
/-! DEFINITION. Which commands have an encoding. "Every value of `pos`, `start`, `c`, `text[i]`, `n` and `dp` is
legal" (30_encoding.md R70), so the one check is that the count byte can hold the length of a text (R66). -/

namespace Sys2Proof

/-- R66: `n` is "an unsigned 8-bit count, 0 to 255". -/
def textFits (text : List Byte) : Bool := decide (text.length ≤ 255)

def wellFormed : Instr → Bool
  | .init => true
  | .clear => true
  | .setchar _ _ _ => true
  | .print _ text => textFits text
  | .refresh => true

/-- The command has an encoding. -/
abbrev WellFormed (i : Instr) : Prop := wellFormed i = true

end Sys2Proof
end

