-- ==== Sys2Proof/Decode.lean ====
section
/-! DEFINITION. The command encoding, 30_encoding.md Part A: the decoder (R61, R62, R68, R69), total on any bytes and
rejecting by name; the encoder; and the reading of an opcode-table word. -/

namespace Sys2Proof

/-- Why the decoder's verdict is `invalid` (R69). The names, and which one is given when several hold, are the
model's (log entry 15); that the verdict is `invalid` is the spec's. -/
inductive DecodeError where
  /-- cp is at or past the end of the stream: no more commands. -/
  | endOfStream
  /-- The opcode is 0x00 or 0x06 to 0xFF (R70). -/
  | reservedOpcode (op : Byte)
  /-- The stream ends inside a SETCHAR or a PRINT (R68). -/
  | cutShort
  /-- A SETCHAR whose byte 3 has one of bits 7:1 set (R70). -/
  | reservedBits (flags : Byte)
deriving DecidableEq, Repr

/-- Bytes 1 to 3 of format S (R61): `pos`, `c`, and the byte whose bit 0 is `dp` and whose bits 7:1 must be 0. -/
def decodeSetchar : List Byte → Except DecodeError (Instr × Nat)
  | pos :: c :: flags :: _ =>
    if flags &&& 0xFE = 0 then .ok (.setchar pos c (flags.getLsbD 0), 4) else .error (.reservedBits flags)
  | _ => .error .cutShort

/-- The bytes of format P after its opcode (R61): `start`, `n`, and the n text bytes. -/
def decodePrint : List Byte → Except DecodeError (Instr × Nat)
  | start :: n :: rest =>
    if n.toNat ≤ rest.length then .ok (.print start (rest.take n.toNat), 3 + n.toNat) else .error .cutShort
  | _ => .error .cutShort

/-- The decoder of R69, over the bytes from cp on: the command and its length, or the reason it is invalid. -/
def decode : List Byte → Except DecodeError (Instr × Nat)
  | [] => .error .endOfStream
  | op :: rest =>
    if op = 0x01 then .ok (.init, 1)
    else if op = 0x02 then .ok (.clear, 1)
    else if op = 0x03 then decodeSetchar rest
    else if op = 0x04 then decodePrint rest
    else if op = 0x05 then .ok (.refresh, 1)
    else .error (.reservedOpcode op)

/-- The length in bytes of a command (R61, R62, R68). -/
def commandLength : Instr → Nat
  | .init => 1
  | .clear => 1
  | .setchar _ _ _ => 4
  | .print _ text => 3 + text.length
  | .refresh => 1

/-- The bytes of a command, in stream order (R61, R62). -/
def encode : Instr → List Byte
  | .init => [0x01]
  | .clear => [0x02]
  | .setchar pos c dp => [0x03, pos, c, if dp then 0x01 else 0x00]
  | .print start text => 0x04 :: start :: BitVec.ofNat 8 text.length :: text
  | .refresh => [0x05]

/-- The longest command: a PRINT of 255 characters (R68). -/
def longestCommand : Nat := 258

/-- The bytes of an opcode-table word of `nbits` bits: the table reads a row's bytes "as one big-endian number, the
byte at cp most significant" (opcode_table.json; R62; log entry 6). -/
def tableBytes (nbits w : Nat) : List Byte :=
  (List.range ((nbits + 7) / 8)).map fun k => BitVec.ofNat 8 (w >>> (8 * ((nbits + 7) / 8 - 1 - k)))

/-- An opcode-table word as it stands in the stream, followed by zeros up to the longest command. -/
def tableCommand (nbits w : Nat) : List Byte :=
  tableBytes nbits w ++ List.replicate (longestCommand - (nbits + 7) / 8) 0x00

/-- The command the decoder reads from an opcode-table word, the bytes above it being zeros. -/
def decodeTableWord (nbits w : Nat) : Option Instr :=
  match decode (tableCommand nbits w) with
  | .ok (i, _) => some i
  | .error _ => none

end Sys2Proof
end

