-- ==== Sys2Proof/Config.lean ====
section
/-! DEFINITION. The open parameters of 00_scope.md R8 as one configuration record, the configuration of the modelled
block, and the free value of XFER at reset.

R8: "no rule may assume a value for any of them". Every meaning therefore takes the parameters from `Config.chip`, a
constant without a body, so that nothing can be proved of its values: what is proved of the block holds for every
legal parameter set. The record is built so that its values are exactly the legal parameter sets: the constraints of R8
hold by the way the fields are encoded (log entries 1 to 3). The parameters under the spec's own names (B_BIT, DP_BIT,
SPLIT_POS, T_STEP, T_GAP, DEGREE_ALIASES) are read from it in Machine/Operands.lean. -/

namespace Sys2Proof

/-- One legal parameter set of R8. -/
structure Config where
  /-- CW_A, the control word of transfer byte 6 (R8, R33, R75). -/
  cwA : BitVec 3
  /-- CW_B, the control word of transfer byte 13. -/
  cwB : BitVec 3
  /-- B_BIT and SPLIT_POS together: the permutation that sends mask bit k to SPLIT_POS(k), which is in 1..7, and
  B_BIT to 0, the place of the bit that is stored in bit 0 of the next slot. Every pair of a bit B_BIT and a bijection
  of the other bits onto 1..7 is one permutation of 0..7, and the other way round. -/
  splitPlace : Equiv.Perm (Fin 8)
  /-- DP_BIT, given by its place in a split slot's main byte, less one. Any bit but B_BIT has a place in 1..7, so this
  is DP_BIT with its constraint DP_BIT ≠ B_BIT. -/
  dpPlace : Fin 7
  /-- FONT[0..15]. -/
  font : Vector Byte 16
  /-- G_H, the mask of 'H' and 'h'. -/
  gH : Byte
  /-- G_L, the mask of 'L' and 'l'. -/
  gL : Byte
  /-- G_P, the mask of 'P' and 'p'. -/
  gP : Byte
  /-- G_U, the mask of 'U' and 'u'. -/
  gU : Byte
  /-- G_MINUS, the mask of '-'. -/
  gMinus : Byte
  /-- G_UNDERSCORE, the mask of '_'. -/
  gUnderscore : Byte
  /-- G_EQUALS, the mask of '='. -/
  gEquals : Byte
  /-- G_DEGREE, the mask of the degree sign. -/
  gDegree : Byte
  /-- DEGREE_ALIASES, less the codes listed here that the glyph table maps otherwise: that is the constraint that
  the set is disjoint from every other mapped code (Machine/Operands.lean, `isDegreeAlias`). -/
  degreeCodes : List Byte
  /-- T_STEP less one, in a time unit the spec does not name: T_STEP > 0. -/
  stepLessOne : Nat
  /-- T_GAP less T_STEP less one: T_GAP > T_STEP. -/
  gapExcess : Nat
  /-- HAS_DIM: whether the optional dimming line exists; no rule of the block reads it (R8, 10_state.md R27). -/
  hasDim : Bool
deriving Inhabited

/-- The parameters of the block under consideration: open (R8, D15). No body: uninterpreted. -/
opaque Config.chip : Config

/-- What XFER holds after reset: "unspecified (any 14 bytes)", to be treated "as a free value (a draw), not as zero"
(10_state.md R32, 93 U6). No body: uninterpreted (log entry 4). -/
opaque Config.xferAtReset : Buffer

end Sys2Proof
end

