-- ==== Sys2Proof/Machine/State.lean ====
section
/-! DEFINITION. The state of the block (10_state.md), the events of its trace, the ways a step can end other than in
a next state, and the state after reset. -/

namespace Sys2Proof.Machine

/-- The three mandatory output lines (R26). -/
inductive Line where
  /-- Serial data. -/
  | data
  /-- Serial clock. -/
  | clk
  /-- Chip-select/enable. -/
  | ce
deriving DecidableEq, Repr

/-- The two classes of delay (00_scope.md R8, R10): T_STEP and T_GAP. -/
inductive Hold where
  | step
  | gap
deriving DecidableEq, Repr

/-- An event of the trace WIRE (R28): `Set(L, v)` or `Wait(T)`. -/
inductive Event where
  | set (l : Line) (v : Bool)
  | wait (t : Hold)
deriving DecidableEq, Repr

/-- A step never ends in a fault: "The block raises no exception and reports no error" (60_exceptions.md R140), and it
"has no behaviour a model should treat as `fault` or `stuck`" (93_implementation_defined.md section 2). So there is no
constructor: nothing raises one. -/
inductive Fault where
deriving DecidableEq, Repr

/-- Why a step is refused. All but the first are the decoder's verdict `invalid` (30_encoding.md R69, R70: "a model must
refuse them"); they are safe, since nothing is claimed of what follows. -/
inductive Refusal where
  /-- Raised by an arm of exec whose command has no meaning yet; no arm does. Safe. -/
  | notModelled (mnemonic : String)
  /-- Raised by step when cp is at or past the end of the command stream: no command is there, and the run is over (R69,
  70 R170; log entry 7). Safe. -/
  | endOfStream
  /-- Raised by step on opcode 0x00 or 0x06 to 0xFF (R70). Safe. -/
  | reservedOpcode (op : Byte)
  /-- Raised by step on a SETCHAR or a PRINT that the end of the stream cuts short (R68, R69). Safe. -/
  | cutShort
  /-- Raised by step on a SETCHAR whose byte 3 has a bit of 7:1 set (R70). Safe. -/
  | reservedBits (flags : Byte)
deriving DecidableEq, Repr

/-- The whole state of the block (10_state.md), and the host's command stream. -/
structure State where
  /-- SEG, the SegmentBuffer (R20). -/
  seg : Buffer
  /-- XFER, the TransferBuffer (R23). -/
  xfer : Buffer
  /-- DATA, the data line register (R26). -/
  data : Bool
  /-- CLK, the clock line register (R26). -/
  clk : Bool
  /-- CE, the chip-enable line register (R26). -/
  ce : Bool
  /-- WIRE, every event since reset, oldest first (R28). -/
  wire : List Event
  /-- cp, the index in the command stream of the next command's first byte (R31). -/
  cp : Nat
  /-- The command stream (30_encoding.md R60): the host's input, which no command writes (20_memory.md R53). The
  model's own field, not the spec's state (log entry 5). -/
  stream : List Byte
deriving DecidableEq, Repr

/-- The state after reset (R32, 70 R155): SEG all zero, the lines idle, XFER unspecified, WIRE empty, cp = 0; and no
command handed over yet (log entry 5). -/
def State.reset : State where
  seg := Vector.replicate 14 0x00
  xfer := Config.xferAtReset
  data := false
  clk := false
  ce := false
  wire := []
  cp := 0
  stream := []

end Sys2Proof.Machine
end

