-- ==== Sys2Proof/Machine/Ops.lean ====
section
/-! DEFINITION. The named operations over SEG, XFER, the lines, WIRE and cp that every meaning is made of, and the
fetching of command bytes.

There is no operation here for taking an exception and none for returning from one: "There is no trap mechanism: no
state is saved anywhere on any event, no mode or mask changes" (60_exceptions.md R140, R148), and no command has a
mode to check (R149). There is no Flags.lean: the block has no flag (10_state.md R30). -/

namespace Sys2Proof.Machine

/-- Byte `i` of a buffer. -/
def getByte (b : Buffer) (i : Slot) : Byte := b[i]

/-- The buffer with byte `i` replaced; an access moves one whole byte (20_memory.md R47). -/
def putByte (b : Buffer) (i : Slot) (v : Byte) : Buffer := b.set i v

/-- Fourteen zero bytes: every segment off (00_scope.md R9). -/
def blankBuffer : Buffer := Vector.replicate 14 0x00

/-- The byte whose bit j is `f j`. -/
def byteOfBits (f : Fin 8 → Bool) : Byte :=
  BitVec.ofBoolListLE [f 0, f 1, f 2, f 3, f 4, f 5, f 6, f 7]

/-- `SEG[h]` (R10); no side effect (20_memory.md R48). -/
def readSeg (h : Slot) (s : State) : Byte := getByte s.seg h

/-- `SEG[h] <- v` (R10). -/
def writeSeg (h : Slot) (v : Byte) (s : State) : State := { s with seg := putByte s.seg h v }

/-- `for h in 0..13: SEG[h] <- 0x00` (R84, R87, R135). -/
def clearSeg (s : State) : State := { s with seg := blankBuffer }

/-- `XFER[i]` (R10). -/
def readXfer (i : Slot) (s : State) : Byte := getByte s.xfer i

/-- XFER takes its value for this refresh, all 14 bytes at once (R23, R24). -/
def loadXfer (b : Buffer) (s : State) : State := { s with xfer := b }

/-- `Set(L, v)` (R10, R115): the line register takes the value and the event is appended to WIRE, also when the line
already has it. -/
def setLine (l : Line) (v : Bool) (s : State) : State :=
  match l with
  | .data => { s with data := v, wire := s.wire ++ [.set .data v] }
  | .clk => { s with clk := v, wire := s.wire ++ [.set .clk v] }
  | .ce => { s with ce := v, wire := s.wire ++ [.set .ce v] }

/-- `Wait(T)` (R10, 42_serial.md R124): a marker in WIRE for a delay of at least T in which no line changes. -/
def hold (t : Hold) (s : State) : State := { s with wire := s.wire ++ [.wait t] }

/-- `cp <- cp + n` (R10, R31): unbounded, so it never wraps. -/
def advance (n : Nat) (s : State) : State := { s with cp := s.cp + n }

/-- The bytes of the command stream from cp on (30_encoding.md R60). -/
def fetch (s : State) : List Byte := s.stream.drop s.cp

/-- The refusal a step answers for a decoder verdict (30_encoding.md R70, 60_exceptions.md R145). -/
def refusalOf : DecodeError → Refusal
  | .endOfStream => .endOfStream
  | .reservedOpcode op => .reservedOpcode op
  | .cutShort => .cutShort
  | .reservedBits flags => .reservedBits flags

/-- The host's stream with `bytes` standing at index `start`: what was before stays (zeros fill it up where the stream was
shorter), and so does what comes after (log entry 12). -/
def placeBytes (start : Nat) (bytes stream : List Byte) : List Byte :=
  (stream ++ List.replicate (start - stream.length) 0x00).take start ++ bytes ++ stream.drop (start + bytes.length)

end Sys2Proof.Machine
end

