-- ==== Sys2Proof/Machine/Operands.lean ====
section
/-! DEFINITION. What the operands of a command stand for: the parameters under the spec's names (00_scope.md R8), the
position's slot (20_memory.md R41), the character's mask (40_framebuffer.md R80 to R82), the two places of a split
slot's mask (R83, 20_memory.md R43), and the mask a buffer holds for a position (R54). -/

namespace Sys2Proof.Machine

/-- B_BIT (R8): the mask bit that a split slot stores in the next byte. -/
def bBit (cfg : Config) : Fin 8 := cfg.splitPlace.symm 0

/-- SPLIT_POS (R8): the bit of a split slot's main byte where mask bit `k`, other than B_BIT, stands. -/
def splitPos (cfg : Config) (k : Fin 8) : Fin 8 := cfg.splitPlace k

/-- DP_BIT (R8): the decimal-point bit of a mask. -/
def dpBit (cfg : Config) : Fin 8 := cfg.splitPlace.symm cfg.dpPlace.succ

/-- T_STEP (R8), read by no command. -/
def tStep (cfg : Config) : Nat := cfg.stepLessOne + 1

/-- T_GAP (R8), read by no command. -/
def tGap (cfg : Config) : Nat := tStep cfg + cfg.gapExcess + 1

/-- The entry of the font table that a hexadecimal digit indexes (R81): '0'..'9' are 0x30..0x39, 'A'..'F' 0x41..0x46,
'a'..'f' 0x61..0x66 (30_encoding.md R67). -/
def hexIndex (c : Byte) : Option (Fin 16) :=
  if h : 0x30 ≤ c.toNat ∧ c.toNat ≤ 0x39 then some ⟨c.toNat - 0x30, by omega⟩
  else if h : 0x41 ≤ c.toNat ∧ c.toNat ≤ 0x46 then some ⟨c.toNat - 0x41 + 10, by omega⟩
  else if h : 0x61 ≤ c.toNat ∧ c.toNat ≤ 0x66 then some ⟨c.toNat - 0x61 + 10, by omega⟩
  else none

/-- The hand-authored masks of the letters h, l, p, u in both cases and of '-', '_', '=' (R81, R67). -/
def namedMask (cfg : Config) (c : Byte) : Option Byte :=
  if c = 0x48 ∨ c = 0x68 then some cfg.gH
  else if c = 0x4C ∨ c = 0x6C then some cfg.gL
  else if c = 0x50 ∨ c = 0x70 then some cfg.gP
  else if c = 0x55 ∨ c = 0x75 then some cfg.gU
  else if c = 0x2D then some cfg.gMinus
  else if c = 0x5F then some cfg.gUnderscore
  else if c = 0x3D then some cfg.gEquals
  else none

/-- `c` is in DEGREE_ALIASES (R8): a listed code that no other row of R81 maps. -/
def isDegreeAlias (cfg : Config) (c : Byte) : Bool :=
  decide (c ∈ cfg.degreeCodes) && (hexIndex c).isNone && (namedMask cfg c).isNone

/-- `Glyph(c)` (R80, R81), pure and total: a code that no row maps gives the blank mask. -/
def glyph (cfg : Config) (c : Byte) : Byte :=
  match hexIndex c with
  | some d => cfg.font[d]
  | none =>
    match namedMask cfg c with
    | some m => m
    | none => if isDegreeAlias cfg c then cfg.gDegree else 0x00

/-- The mask written for a character and a decimal-point request (R82): `Glyph(c) | (dp << DP_BIT)`. -/
def cellMask (cfg : Config) (c : Byte) (dp : Bool) : Byte :=
  glyph cfg c ||| ((if dp then 0x01 else 0x00 : Byte) <<< (dpBit cfg).val)

/-- `m[B_BIT]` as a byte, 0 or 1 (R85). -/
def bBitOf (cfg : Config) (m : Byte) : Byte := if m.getLsbD (bBit cfg).val then 0x01 else 0x00

/-- `Main(m)` (R83): bit SPLIT_POS(k) is mask bit k for every k but B_BIT, and bit 0 is 0. -/
def mainByte (cfg : Config) (m : Byte) : Byte :=
  byteOfBits fun j => decide (j ≠ 0) && m.getLsbD (cfg.splitPlace.symm j).val

/-- The slot of a position: `h = 9 - p` (20_memory.md R41). -/
def slotOf (p : Position) : Slot := ⟨9 - p.val, by omega⟩

/-- The slot above it, `h + 1`, whose bit 0 holds the B-bit when `h` is split (R42, R43). -/
def slotAbove (p : Position) : Slot := ⟨10 - p.val, by omega⟩

/-- The position's slot is direct, `h` in 0..5, and not split, `h` in 6..9 (R42). -/
def isDirect (p : Position) : Bool := decide ((slotOf p).val ≤ 5)

/-- `ReadMask(p)` (20_memory.md R54): the mask that a SegmentBuffer holds for position p. No command computes it; it
is the spec's function for stating properties. -/
def readMask (cfg : Config) (seg : Buffer) (p : Position) : Byte :=
  if isDirect p then getByte seg (slotOf p)
  else byteOfBits fun k =>
    if k = bBit cfg then (getByte seg (slotAbove p)).getLsbD 0
    else (getByte seg (slotOf p)).getLsbD (splitPos cfg k).val

end Sys2Proof.Machine
end

