-- ==== Sys2Proof/Machine/FrameBuffer.lean ====
section
/-! DEFINITION. The segment_framebuffer_controller: SetChar, and the commands CLEAR, SETCHAR and PRINT
(40_framebuffer.md). -/

namespace Sys2Proof.Machine

/-- CLEAR (R84). -/
def execClear (s : State) : Host.Outcome State Fault Refusal :=
  .next (advance 1 (clearSeg s))

/-- SetChar on a split slot (R85): the B-bit into bit 0 of slot h+1, "clearing only that bit there first"; then the main
byte, keeping the inherited B-bit in bit 0 of slot h (90_conflicts.md C2). -/
def setSplitCell (cfg : Config) (p : Position) (m : Byte) (s : State) : State :=
  let s1 := writeSeg (slotAbove p) ((readSeg (slotAbove p) s &&& 0xFE) ||| bBitOf cfg m) s
  writeSeg (slotOf p) (mainByte cfg m ||| (readSeg (slotOf p) s1 &&& 0x01)) s1

/-- A mask written to the cell of a position (R85): a direct slot's byte is fully overwritten. -/
def setCell (cfg : Config) (p : Position) (m : Byte) (s : State) : State :=
  if isDirect p then writeSeg (slotOf p) m s else setSplitCell cfg p m s

/-- `SetChar(pos, c, dp)` (R85): a no-op for a position of 10 or more (20_memory.md R46); the position is checked before
the character is looked at (60_exceptions.md R147). -/
def setChar (cfg : Config) (pos : Nat) (c : Byte) (dp : Bool) (s : State) : State :=
  if h : pos < 10 then setCell cfg ⟨pos, h⟩ (cellMask cfg c dp) s else s

/-- SETCHAR (R86). -/
def execSetchar (pos c : Byte) (dp : Bool) (s : State) : Host.Outcome State Fault Refusal :=
  .next (advance 4 (setChar Config.chip pos.toNat c dp s))

/-- The code of '.' (30_encoding.md R67). -/
def dotCode : Byte := 0x2E

/-- The loop of PRINT (R87) over the rest of the text: a character that takes a position looks one code ahead, and a '.'
there is consumed as its decimal point; the loop stops at position 10. -/
def printFrom (cfg : Config) : Nat → List Byte → State → State
  | _, [], s => s
  | pos, [c], s => if pos < 10 then setChar cfg pos c false s else s
  | pos, c :: d :: rest, s =>
    if pos < 10 then
      if d = dotCode then printFrom cfg (pos + 1) rest (setChar cfg pos c true s)
      else printFrom cfg (pos + 1) (d :: rest) (setChar cfg pos c false s)
    else s

/-- PRINT (R87): the clear happens first and always; the whole command is consumed whatever is written (R143). -/
def execPrint (start : Byte) (text : List Byte) (s : State) : Host.Outcome State Fault Refusal :=
  .next (advance (3 + text.length) (printFrom Config.chip start.toNat text (clearSeg s)))

end Sys2Proof.Machine
end

