-- ==== Sys2Proof/Machine/Init.lean ====
section
/-! DEFINITION. The command INIT (43_init.md). -/

namespace Sys2Proof.Machine

/-- The lines to idle, in the order of R135. -/
def idleLines (s : State) : State :=
  s |> setLine .data false |> setLine .clk false |> setLine .ce false

/-- INIT (R135): the lines to idle and SEG cleared; nothing is transmitted, WIRE is not emptied, cp is not zeroed and
XFER is not written. -/
def execInit (s : State) : Host.Outcome State Fault Refusal :=
  .next (advance 1 (clearSeg (idleLines s)))

end Sys2Proof.Machine
end

