-- ==== Sys2Proof/Machine/Encoder.lean ====
section
/-! DEFINITION. The display_segment_encoder: the pure function from a SegmentBuffer to the TransferBuffer (41_encoder.md).
No command of its own; REFRESH calls it. -/

namespace Sys2Proof.Machine

/-- One byte of the rotation (R102): shifted left by 3, the carry in its low bits; its own top 3 bits are the next
carry. -/
def rotateByte (x : Buffer × Byte) (i : Slot) : Buffer × Byte :=
  (putByte x.1 i ((getByte x.1 i <<< 3) ||| x.2), getByte x.1 i >>> 5)

/-- Step 2 (R102): bytes 7 to 13 left by 3 bits, the carry seeded from the top 3 bits of byte 6, the last carry
dropped; not circular (90_conflicts.md C1). -/
def rotateSpan (x : Buffer) : Buffer :=
  (([7, 8, 9, 10, 11, 12, 13] : List Slot).foldl rotateByte (x, getByte x 6 >>> 5)).1

/-- A control word over the top 3 bits of a byte, its low 5 bits kept (R103, 30_encoding.md R75). -/
def stampWord (cw : BitVec 3) (b : Byte) : Byte := (b &&& 0x1F) ||| (cw.setWidth 8 <<< 5)

/-- Step 3 (R103): CW_A over byte 6 and CW_B over byte 13, unconditionally. -/
def stampControl (cfg : Config) (x : Buffer) : Buffer :=
  let y := putByte x 6 (stampWord cfg.cwA (getByte x 6))
  putByte y 13 (stampWord cfg.cwB (getByte y 13))

/-- `Encode` (R100): copy (R101), rotate (R102), stamp (R103). -/
def encodeSeg (cfg : Config) (seg : Buffer) : Buffer := stampControl cfg (rotateSpan seg)

/-- `S'[i]` of R107 for i in 7..12. -/
def unrotateByte (y : Buffer) (i next : Slot) : Byte := (getByte y i >>> 3) ||| ((getByte y next <<< 5) &&& 0xE0)

/-- `Unrotate` (R107), the inverse of step 2 alone: bytes 7 to 13 of a buffer as step 2 left it; bytes 0 to 6 stay. -/
def unrotate (y : Buffer) : Buffer :=
  #v[getByte y 0, getByte y 1, getByte y 2, getByte y 3, getByte y 4, getByte y 5, getByte y 6,
    unrotateByte y 7 8, unrotateByte y 8 9, unrotateByte y 9 10, unrotateByte y 10 11, unrotateByte y 11 12,
    unrotateByte y 12 13, getByte y 13 >>> 3]

end Sys2Proof.Machine
end

