-- ==== Sys2Proof/Machine/Serial.lean ====
section
/-! DEFINITION. The serial_protocol_driver and the command REFRESH (42_serial.md). A REFRESH is one step: "A model may
therefore treat REFRESH as one atomic step that appends all 681 events" (R127; log entry 8). -/

namespace Sys2Proof.Machine

/-- `SendBit(v)` (R116): one data-set and clock-pulse cycle. -/
def sendBit (v : Bool) (s : State) : State :=
  s |> setLine .data v |> hold .step |> setLine .clk true |> hold .step |> setLine .clk false |> hold .step

/-- `SendByte(b)` (R117): least-significant bit first. -/
def sendByte (b : Byte) (s : State) : State :=
  (List.range 8).foldl (fun s j => sendBit (b.getLsbD j) s) s

/-- The slots of the block that starts at byte 0 and of the one that starts at byte 7 (R118). -/
def blockOne : List Slot := [0, 1, 2, 3, 4, 5, 6]

def blockTwo : List Slot := [7, 8, 9, 10, 11, 12, 13]

/-- `SendBlock` (R118): the bytes of a block in ascending order (20_memory.md R45). -/
def sendBlock (block : List Slot) (s : State) : State :=
  block.foldl (fun s i => sendByte (readXfer i s) s) s

/-- Step 5 of refresh: the low pulse of chip-enable between the blocks (R119, R120). -/
def blockGap (s : State) : State :=
  s |> setLine .data false |> hold .step |> setLine .ce false |> hold .gap |> setLine .ce true |> hold .step

/-- Steps 4 to 6 of refresh (R119): XFER sent as two blocks, ending idle. -/
def transmit (s : State) : State :=
  s |> setLine .ce true |> sendBlock blockOne |> blockGap |> sendBlock blockTwo
    |> setLine .data false |> setLine .ce false

/-- REFRESH (R119). -/
def execRefresh (s : State) : Host.Outcome State Fault Refusal :=
  .next (advance 1 (transmit (loadXfer (encodeSeg Config.chip s.seg) s)))

end Sys2Proof.Machine
end

