-- ==== Sys2Proof/Machine/Dispatch.lean ====
section
/-! DEFINITION. The meaning of each command, one arm per constructor. -/

namespace Sys2Proof.Machine

def exec (i : Instr) (s : State) : Host.Outcome State Fault Refusal :=
  match i with
  | .init => Sys2Proof.Machine.execInit s
  | .clear => Sys2Proof.Machine.execClear s
  | .setchar pos c dp => Sys2Proof.Machine.execSetchar pos c dp s
  | .print start text => Sys2Proof.Machine.execPrint start text s
  | .refresh => Sys2Proof.Machine.execRefresh s

end Sys2Proof.Machine
end

