-- ==== Sys2Proof/Machine/Step.lean ====
section
/-! DEFINITION. One step: the command at cp is decoded and executed to completion (30_encoding.md R60, 20_memory.md
R50). -/

namespace Sys2Proof.Machine

/-- One command, or the refusal that names why there is none to execute (R69, R70). exec itself moves cp past the
command (R31). -/
def step (s : State) : Host.Outcome State Fault Refusal :=
  match decode (fetch s) with
  | .ok (i, _) => exec i s
  | .error e => .refused (refusalOf e)

/-- `s` with an opcode-table word, and zeros after it up to the longest command, standing in the command stream at cp:
the host handing over that command next. -/
def State.withFetchWord (s : State) (nbits w : Nat) : State :=
  { s with stream := placeBytes s.cp (tableCommand nbits w) s.stream }

end Sys2Proof.Machine
end

