-- ==== Sys2Proof/Machine/Observe.lean ====
section
/-! DEFINITION. What an observer of the three lines sees: the frames (30_encoding.md R73), SEG as one bit string
(20_memory.md R44), the event sequences of 42_serial.md as lists, the line levels that a trace leaves, the sampling
observer of R123, a trace without the events that change no line (R125), and the time its delays stand for (R124). No
command reads any of this; claims about WIRE are stated with it. -/

namespace Sys2Proof.Machine

/-- `D[k]` (R44): bit k of SEG read as one string, lower slot first, least-significant bit first. -/
def segBit (seg : Buffer) (k : Fin 112) : Bool :=
  (getByte seg ⟨k.val / 8, by omega⟩).getLsbD (k.val % 8)

/-- Frame 1 (R73): bit t is `XFER[t div 8][t mod 8]`. -/
def frameOne (xfer : Buffer) : List Bool :=
  (List.finRange 56).map fun t => (getByte xfer ⟨t.val / 8, by omega⟩).getLsbD (t.val % 8)

/-- Frame 2 (R73): bit t is `XFER[7 + t div 8][t mod 8]`. -/
def frameTwo (xfer : Buffer) : List Bool :=
  (List.finRange 56).map fun t => (getByte xfer ⟨7 + t.val / 8, by omega⟩).getLsbD (t.val % 8)

/-- The three bits of a control word in the order they leave (R75). -/
def wordBits (cw : BitVec 3) : List Bool := [cw.getLsbD 0, cw.getLsbD 1, cw.getLsbD 2]

/-- The six events of `SendBit(v)` (R116). -/
def bitEvents (v : Bool) : List Event :=
  [.set .data v, .wait .step, .set .clk true, .wait .step, .set .clk false, .wait .step]

/-- The events of `SendByte(b)` (R117). -/
def byteEvents (b : Byte) : List Event := (List.range 8).flatMap fun j => bitEvents (b.getLsbD j)

/-- The events of `SendBlock(lo)` (R118) for the slots of the block. -/
def blockEvents (xfer : Buffer) (block : List Slot) : List Event := block.flatMap fun i => byteEvents (getByte xfer i)

/-- The events of one REFRESH that transmits `xfer` (R119). -/
def refreshEvents (xfer : Buffer) : List Event :=
  [.set .ce true] ++ blockEvents xfer [0, 1, 2, 3, 4, 5, 6]
    ++ [.set .data false, .wait .step, .set .ce false, .wait .gap, .set .ce true, .wait .step]
    ++ blockEvents xfer [7, 8, 9, 10, 11, 12, 13] ++ [.set .data false, .set .ce false]

/-- The levels of the three lines. -/
structure Lines where
  data : Bool
  clk : Bool
  ce : Bool
deriving DecidableEq, Repr

/-- The line state DATA = 0, CLK = 0, CE = 0 (10_state.md R29, 00_scope.md section 7). -/
def idleLevels : Lines := ⟨false, false, false⟩

/-- The levels of a state's line registers. -/
def linesOf (s : State) : Lines := ⟨s.data, s.clk, s.ce⟩

/-- The levels after an event. -/
def levelsAfter (l : Lines) : Event → Lines
  | .set .data v => { l with data := v }
  | .set .clk v => { l with clk := v }
  | .set .ce v => { l with ce := v }
  | .wait _ => l

/-- The levels after a trace. -/
def replay (l : Lines) (w : List Event) : Lines := w.foldl levelsAfter l

/-- An event is normative on the wire (R125): a `Wait`, or a `Set` that changes a line. -/
def changesWire (l : Lines) : Event → Bool
  | .set .data v => v != l.data
  | .set .clk v => v != l.clk
  | .set .ce v => v != l.ce
  | .wait _ => true

/-- A trace without the `Set` events that find their line already at the level (R125). -/
def visible : Lines → List Event → List Event
  | _, [] => []
  | l, e :: w => if changesWire l e then e :: visible (levelsAfter l e) w else visible (levelsAfter l e) w

/-- CE rises (R123: a new record starts). -/
def opensRecord (l : Lines) : Event → Bool
  | .set .ce v => v && !l.ce
  | _ => false

/-- CLK rises (`edge` true) or falls (`edge` false) while CE is 1 (R123: DATA is recorded). -/
def samplesData (edge : Bool) (l : Lines) : Event → Bool
  | .set .clk v => (v == edge) && (l.clk != edge) && l.ce
  | _ => false

/-- A bit added to the newest record; none where no record has been opened (log entry 16). -/
def recordBit (b : Bool) : List (List Bool) → List (List Bool)
  | [] => []
  | [r] => [r ++ [b]]
  | r :: rs => r :: recordBit b rs

/-- The observer of R123 over a trace that starts at line levels `l`: its records, oldest first. -/
def sample (edge : Bool) : Lines → List (List Bool) → List Event → List (List Bool)
  | _, records, [] => records
  | l, records, e :: w =>
    sample edge (levelsAfter l e)
      (if opensRecord l e then records ++ [[]]
      else if samplesData edge l e then recordBit l.data records
      else records) w

/-- The least time the delays of a trace take (R124, 70 R168). -/
def holdTime (cfg : Config) : List Event → Nat
  | [] => 0
  | .set _ _ :: w => holdTime cfg w
  | .wait .step :: w => tStep cfg + holdTime cfg w
  | .wait .gap :: w => tGap cfg + holdTime cfg w

end Sys2Proof.Machine
end

