-- ==== Sys2Proof/Safety.lean ====
section
/-! DEFINITION. What claims about the block and its runs are stated with: the invariant of a state, the reachable states,
a run of commands, the triples PRINT's loop passes to SetChar, and the display as ten independent mask cells. -/

namespace Sys2Proof.Machine

/-- The bits of SEG that no command ever sets (10_state.md R22): slots 11 to 13, bits 7:1 of slot 10, bit 0 of slot 6. -/
abbrev UnusedBitsClear (seg : Buffer) : Prop :=
  getByte seg 11 = 0x00 ∧ getByte seg 12 = 0x00 ∧ getByte seg 13 = 0x00 ∧
    getByte seg 10 &&& 0xFE = 0x00 ∧ getByte seg 6 &&& 0x01 = 0x00

/-- A state between commands: the lines are idle (R29), the unused bits of SEG are clear (R22), the line registers are at
the levels that WIRE leaves since reset (R28), and cp is not past the end of the command stream (R31, 70 R170). -/
abbrev Inv (s : State) : Prop :=
  linesOf s = idleLevels ∧ UnusedBitsClear s.seg ∧ replay idleLevels s.wire = linesOf s ∧ s.cp ≤ s.stream.length

/-- The states of the runs of a command stream: from reset, whatever XFER holds then, by steps. -/
inductive Reachable (stream : List Byte) : State → Prop where
  | start (x : Buffer) : Reachable stream { State.reset with xfer := x, stream := stream }
  | next (s t : State) : Reachable stream s → step s = .next t → Reachable stream t

/-- Commands executed one after the other, each to completion (20_memory.md R50). -/
def runCommands : List Instr → State → Host.Outcome State Fault Refusal
  | [], s => .next s
  | i :: is, s =>
    match exec i s with
    | .next t => runCommands is t
    | .fault r => .fault r
    | .refused r => .refused r

/-- The loop of 40_framebuffer.md R87 as it is written there, over the index `i` into the text and the position `pos`,
giving the triples `(pos, text[i], dp)` it passes to SetChar; `fuel` bounds the rounds. -/
def printRounds (text : List Byte) : Nat → Nat → Nat → List (Nat × Byte × Bool)
  | 0, _, _ => []
  | fuel + 1, i, pos =>
    if i < text.length ∧ pos < 10 then
      let dp : Bool := decide (i + 1 < text.length ∧ text.getD (i + 1) 0x00 = 0x2E)
      (pos, text.getD i 0x00, dp) :: printRounds text fuel (i + 1 + dp.toNat) (pos + 1)
    else []

/-- The triples of `PRINT start text` (R87, R90); a text of n codes gives at most n rounds. -/
def printCells (start : Byte) (text : List Byte) : List (Nat × Byte × Bool) :=
  printRounds text text.length 0 start.toNat

/-- The display content as ten independent cells, one mask per position. -/
abbrev Screen := Position → Byte

/-- The cells that a SegmentBuffer holds (20_memory.md R54). -/
def screenOf (cfg : Config) (seg : Buffer) : Screen := readMask cfg seg

/-- Every cell blank (00_scope.md R9). -/
def blankScreen : Screen := fun _ => 0x00

/-- A cell written: the cell at `pos`, if there is one, takes the mask of the character; no other cell changes (R55,
R46). -/
def screenWrite (cfg : Config) (scr : Screen) (cell : Nat × Byte × Bool) : Screen :=
  fun q => if q.val = cell.1 then cellMask cfg cell.2.1 cell.2.2 else scr q

/-- What a command does to the ten cells (R135, R84, R86, R90, R119). -/
def screenCommand (cfg : Config) (i : Instr) (scr : Screen) : Screen :=
  match i with
  | .init => blankScreen
  | .clear => blankScreen
  | .setchar pos c dp => screenWrite cfg scr (pos.toNat, c, dp)
  | .print start text => (printCells start text).foldl (screenWrite cfg) blankScreen
  | .refresh => scr

end Sys2Proof.Machine
end

