-- ==== Sys2Proof/Certificates/Slice0/Obligations.lean ====
section
/-! DEFINITION. The statements about the block, taken from the numbered rules of spec/. Each is about every state and
every operand unless a hypothesis says otherwise, and about `Config.chip`, an uninterpreted parameter set, or about every
parameter set. Statements whose rule the spec marks `[derived]`, or that rest on an entry of notes/assumptions, say so. -/

open Sys2Proof Sys2Proof.Machine

/-! ## The five commands: what each does, what it leaves unchanged, and that it completes -/

/-- R135: INIT sets the lines to idle with three `Set` events, clears SEG, moves cp by 1, and changes nothing else; when
the lines are idle already, none of its events changes a line. -/
def Obligations.InitIdlesLinesAndClearsSeg : Prop :=
  ∀ s : State,
    exec .init s = .next
      { s with
        seg := Vector.replicate 14 0x00
        data := false
        clk := false
        ce := false
        wire := s.wire ++ [.set .data false, .set .clk false, .set .ce false]
        cp := s.cp + 1 } ∧
    visible idleLevels [.set .data false, .set .clk false, .set .ce false] = []

/-- R84: CLEAR sets all 14 bytes of SEG to zero, moves cp by 1, and changes nothing else. -/
def Obligations.ClearZeroesSeg : Prop :=
  ∀ s : State, exec .clear s = .next { s with seg := Vector.replicate 14 0x00, cp := s.cp + 1 }

/-- R85, R86: SETCHAR for each class of position, byte by byte; everything but SEG and cp is unchanged. -/
def Obligations.SetcharWritesItsBytes : Prop :=
  ∀ (pos c : Byte) (dp : Bool) (s : State), ∃ t : State,
    exec (.setchar pos c dp) s = .next t ∧
    t = { s with seg := t.seg, cp := s.cp + 4 } ∧
    (10 ≤ pos.toNat → t.seg = s.seg) ∧
    (∀ h : Slot, pos.toNat < 10 → h.val = 9 - pos.toNat → h.val ≤ 5 →
      getByte t.seg h = glyph Config.chip c ||| ((if dp then 0x01 else 0x00 : Byte) <<< (dpBit Config.chip).val) ∧
      ∀ i : Slot, i ≠ h → getByte t.seg i = getByte s.seg i) ∧
    (∀ h above : Slot, pos.toNat < 10 → h.val = 9 - pos.toNat → 6 ≤ h.val → above.val = h.val + 1 →
      let m := glyph Config.chip c ||| ((if dp then 0x01 else 0x00 : Byte) <<< (dpBit Config.chip).val)
      getByte t.seg above =
        (getByte s.seg above &&& 0xFE) ||| (if m.getLsbD (bBit Config.chip).val then 0x01 else 0x00) ∧
      getByte t.seg h = mainByte Config.chip m ||| (getByte s.seg h &&& 0x01) ∧
      ∀ i : Slot, i ≠ h → i ≠ above → getByte t.seg i = getByte s.seg i)

/-- R87: PRINT clears SEG and passes to SetChar, in order, the triples of the loop as the rule writes it; it moves cp by
3 + n and changes nothing but SEG and cp. -/
def Obligations.PrintRunsTheLoop : Prop :=
  ∀ (start : Byte) (text : List Byte) (s : State), ∃ t : State,
    exec (.print start text) s = .next t ∧
    t = { s with seg := t.seg, cp := s.cp + 3 + text.length } ∧
    t.seg = ((printCells start text).foldl (fun u cell => setChar Config.chip cell.1 cell.2.1 cell.2.2 u)
      { s with seg := Vector.replicate 14 0x00 }).seg

/-- R119: REFRESH loads XFER with Encode(SEG), appends the events of steps 4 to 6, leaves the lines idle, moves cp by
1, and changes nothing else: SEG and the stream stay. -/
def Obligations.RefreshEncodesAndTransmits : Prop :=
  ∀ s : State,
    exec .refresh s = .next
      { s with
        xfer := encodeSeg Config.chip s.seg
        data := false
        clk := false
        ce := false
        wire := s.wire ++ refreshEvents (encodeSeg Config.chip s.seg)
        cp := s.cp + 1 }

/-- R140: no command fails, and no step ends in a fault. -/
def Obligations.NoCommandFails : Prop :=
  (∀ (i : Instr) (s : State), ∃ t : State, exec i s = .next t) ∧ (∀ (s : State) (f : Fault), step s ≠ .fault f)

/-- R31: cp is 0 at reset; each command advances it by its own length and by nothing else; no result depends on its
value. -/
def Obligations.CpAdvancesByLength : Prop :=
  State.reset.cp = 0 ∧
  ∀ (i : Instr) (s : State), ∃ t : State,
    exec i s = .next t ∧
    ∀ k : Nat,
      exec i { s with cp := k } = .next { t with cp := k +
        match i with
        | .init => 1
        | .clear => 1
        | .setchar _ _ _ => 4
        | .print _ text => 3 + text.length
        | .refresh => 1 }

/-- The frames of all five commands (R20, R23, R26, R53): which command writes what. -/
def Obligations.OnlyTheirCommandsWrite : Prop :=
  ∀ (i : Instr) (s : State), ∃ t : State,
    exec i s = .next t ∧
    t.stream = s.stream ∧
    (i ≠ .refresh → t.xfer = s.xfer) ∧
    (i = .refresh → t.seg = s.seg) ∧
    (i ≠ .refresh → i ≠ .init → linesOf t = linesOf s ∧ t.wire = s.wire) ∧
    s.wire <+: t.wire

/-- R141: a position of 10 or more makes SETCHAR change cp alone; a PRINT that starts there only clears. -/
def Obligations.OutOfRangePositionsAreIgnored : Prop :=
  ∀ (pos c : Byte) (dp : Bool) (text : List Byte) (s : State), 10 ≤ pos.toNat →
    exec (.setchar pos c dp) s = .next { s with cp := s.cp + 4 } ∧
    exec (.print pos text) s = .next { s with seg := Vector.replicate 14 0x00, cp := s.cp + 3 + text.length }

/-- The consequence the spec marks derived at R48: CLEAR, SETCHAR and PRINT done twice leave what they left once, but
for cp; INIT leaves the same SEG, XFER and lines. -/
def Obligations.WritersAreIdempotent : Prop :=
  ∀ (i : Instr) (s : State), i ≠ .refresh → ∃ t u : State,
    exec i s = .next t ∧ exec i t = .next u ∧
    u.seg = t.seg ∧ u.xfer = t.xfer ∧ linesOf u = linesOf t ∧ u.stream = t.stream ∧
    (i ≠ .init → u = { t with cp := t.cp + commandLength i })

/-! ## Glyphs, masks and split slots -/

/-- R81: the glyph table, row by row. -/
def Obligations.GlyphFollowsTheTable : Prop :=
  ∀ cfg : Config,
    (∀ (c : Byte) (d : Fin 16), 0x30 ≤ c.toNat → c.toNat ≤ 0x39 → d.val = c.toNat - 0x30 → glyph cfg c = cfg.font[d]) ∧
    (∀ (c : Byte) (d : Fin 16), 0x41 ≤ c.toNat → c.toNat ≤ 0x46 → d.val = c.toNat - 0x41 + 10 → glyph cfg c = cfg.font[d]) ∧
    (∀ (c : Byte) (d : Fin 16), 0x61 ≤ c.toNat → c.toNat ≤ 0x66 → d.val = c.toNat - 0x61 + 10 → glyph cfg c = cfg.font[d]) ∧
    (glyph cfg 0x48 = cfg.gH ∧ glyph cfg 0x68 = cfg.gH) ∧
    (glyph cfg 0x4C = cfg.gL ∧ glyph cfg 0x6C = cfg.gL) ∧
    (glyph cfg 0x50 = cfg.gP ∧ glyph cfg 0x70 = cfg.gP) ∧
    (glyph cfg 0x55 = cfg.gU ∧ glyph cfg 0x75 = cfg.gU) ∧
    glyph cfg 0x2D = cfg.gMinus ∧ glyph cfg 0x5F = cfg.gUnderscore ∧ glyph cfg 0x3D = cfg.gEquals ∧
    (∀ c : Byte, isDegreeAlias cfg c = true → glyph cfg c = cfg.gDegree) ∧
    (∀ c : Byte, ¬ (0x30 ≤ c.toNat ∧ c.toNat ≤ 0x39) → ¬ (0x41 ≤ c.toNat ∧ c.toNat ≤ 0x46) →
      ¬ (0x61 ≤ c.toNat ∧ c.toNat ≤ 0x66) →
      c ∉ ([0x48, 0x68, 0x4C, 0x6C, 0x50, 0x70, 0x55, 0x75, 0x2D, 0x5F, 0x3D] : List Byte) →
      isDegreeAlias cfg c = false → glyph cfg c = 0x00)

/-- R82: the mask of a cell is the glyph, with bit DP_BIT set as well when the decimal point is asked for. -/
def Obligations.MaskOrsInDecimalPoint : Prop :=
  ∀ (cfg : Config) (c : Byte),
    cellMask cfg c false = glyph cfg c ∧
    ∀ k : Fin 8, (cellMask cfg c true).getLsbD k.val = ((glyph cfg c).getLsbD k.val || decide (k = dpBit cfg))

/-- R83: `Main(m)` has mask bit k at place SPLIT_POS(k) for every k but B_BIT, and 0 at bit 0; it keeps nothing of bit
B_BIT. -/
def Obligations.MainRemapsSevenBits : Prop :=
  ∀ (cfg : Config) (m : Byte),
    (mainByte cfg m).getLsbD 0 = false ∧
    (∀ k : Fin 8, k ≠ bBit cfg → (mainByte cfg m).getLsbD (splitPos cfg k).val = m.getLsbD k.val) ∧
    mainByte cfg 0x00 = 0x00 ∧
    ∀ m' : Byte, (∀ k : Fin 8, k ≠ bBit cfg → m'.getLsbD k.val = m.getLsbD k.val) → mainByte cfg m' = mainByte cfg m

/-- The constraints of R8 hold of every configuration record, whose encoding is the model's choice (log entries 2 and 3). -/
def Obligations.EveryConfigIsLegal : Prop :=
  ∀ cfg : Config,
    dpBit cfg ≠ bBit cfg ∧
    (∀ k : Fin 8, k ≠ bBit cfg → splitPos cfg k ≠ 0) ∧
    (∀ j : Fin 8, j ≠ 0 → ∃! k : Fin 8, k ≠ bBit cfg ∧ splitPos cfg k = j) ∧
    0 < tStep cfg ∧ tStep cfg < tGap cfg ∧
    ∀ c : Byte, isDegreeAlias cfg c = true →
      ¬ (0x30 ≤ c.toNat ∧ c.toNat ≤ 0x39) ∧ ¬ (0x41 ≤ c.toNat ∧ c.toNat ≤ 0x46) ∧ ¬ (0x61 ≤ c.toNat ∧ c.toNat ≤ 0x66) ∧
      c ∉ ([0x48, 0x68, 0x4C, 0x6C, 0x50, 0x70, 0x55, 0x75, 0x2D, 0x5F, 0x3D] : List Byte)

/-- Every legal parameter set of R8 is a configuration record, so a statement about every record is about every legal
set; the encoding is the model's choice (log entries 2 and 3). -/
def Obligations.EveryLegalSetIsAConfig : Prop :=
  ∀ (cwA cwB : BitVec 3) (b d : Fin 8) (place : Fin 8 → Fin 8) (aliases : List Byte) (ts tg : Nat),
    d ≠ b → (∀ k : Fin 8, k ≠ b → place k ≠ 0) →
    (∀ k l : Fin 8, k ≠ b → l ≠ b → place k = place l → k = l) →
    (∀ c ∈ aliases, ¬ (0x30 ≤ c.toNat ∧ c.toNat ≤ 0x39) ∧ ¬ (0x41 ≤ c.toNat ∧ c.toNat ≤ 0x46) ∧
      ¬ (0x61 ≤ c.toNat ∧ c.toNat ≤ 0x66) ∧
      c ∉ ([0x48, 0x68, 0x4C, 0x6C, 0x50, 0x70, 0x55, 0x75, 0x2D, 0x5F, 0x3D] : List Byte)) →
    0 < ts → ts < tg →
    ∃ cfg : Config,
      cfg.cwA = cwA ∧ cfg.cwB = cwB ∧ bBit cfg = b ∧ dpBit cfg = d ∧
      (∀ k : Fin 8, k ≠ b → splitPos cfg k = place k) ∧
      (∀ c : Byte, isDegreeAlias cfg c = true ↔ c ∈ aliases) ∧ tStep cfg = ts ∧ tGap cfg = tg

/-- The footprint the spec marks derived at R88, and R89: SETCHAR on a split slot writes bits 7:1 of slot h and bit 0 of
slot h+1 and no other bit of SEG, and bit 0 of slot h+1 is then the B-bit of the mask written. -/
def Obligations.SplitWriteFootprint : Prop :=
  ∀ (pos c : Byte) (dp : Bool) (s : State) (h above : Slot),
    pos.toNat ≤ 3 → h.val = 9 - pos.toNat → above.val = h.val + 1 → ∃ t : State,
      exec (.setchar pos c dp) s = .next t ∧
      (getByte t.seg above).getLsbD 0 = (cellMask Config.chip c dp).getLsbD (bBit Config.chip).val ∧
      ∀ (i : Slot) (j : Fin 8), ¬ (i = h ∧ j ≠ 0) → ¬ (i = above ∧ j = 0) →
        (getByte t.seg i).getLsbD j.val = (getByte s.seg i).getLsbD j.val

/-- The write-read property the spec marks derived at R55: after SETCHAR at a position, that position's cell holds the
character's mask and every other position's cell is unchanged. -/
def Obligations.WriteReadsBackAndKeepsOthers : Prop :=
  ∀ (p : Position) (pos c : Byte) (dp : Bool) (s : State), pos.toNat = p.val → ∃ t : State,
    exec (.setchar pos c dp) s = .next t ∧
    readMask Config.chip t.seg p = cellMask Config.chip c dp ∧
    ∀ q : Position, q ≠ p → readMask Config.chip t.seg q = readMask Config.chip s.seg q

/-- R142: a code that no row of the glyph table maps blanks the cell it is written to, all but the decimal point if that is
asked for, and on a split slot puts a 0 B-bit into the slot above; for a listed degree code see R81. -/
def Obligations.UnknownCharacterBlanksTheCell : Prop :=
  ∀ (p : Position) (pos c : Byte) (dp : Bool) (s : State), pos.toNat = p.val →
    ¬ (0x30 ≤ c.toNat ∧ c.toNat ≤ 0x39) → ¬ (0x41 ≤ c.toNat ∧ c.toNat ≤ 0x46) → ¬ (0x61 ≤ c.toNat ∧ c.toNat ≤ 0x66) →
    c ∉ ([0x48, 0x68, 0x4C, 0x6C, 0x50, 0x70, 0x55, 0x75, 0x2D, 0x5F, 0x3D] : List Byte) →
    isDegreeAlias Config.chip c = false → ∃ t : State,
      exec (.setchar pos c dp) s = .next t ∧
      readMask Config.chip t.seg p = (if dp then 0x01 else 0x00 : Byte) <<< (dpBit Config.chip).val ∧
      ∀ above : Slot, p.val ≤ 3 → above.val = 10 - p.val → (getByte t.seg above).getLsbD 0 = false

/-- The consequence the spec marks derived at R167: two SETCHARs at different positions may be given in either order. -/
def Obligations.WriteOrderDoesNotMatter : Prop :=
  ∀ (pos pos' c c' : Byte) (dp dp' : Bool) (s : State), pos ≠ pos' → ∃ t : State,
    runCommands [.setchar pos c dp, .setchar pos' c' dp'] s = .next t ∧
    runCommands [.setchar pos' c' dp', .setchar pos c dp] s = .next t

/-- The ten positions behave as ten independent cells under every command, in every state (R55, R91, R46, R84, R135). -/
def Obligations.SegRefinesTenCells : Prop :=
  ∀ (i : Instr) (s : State), ∃ t : State,
    exec i s = .next t ∧
    screenOf Config.chip t.seg = screenCommand Config.chip i (screenOf Config.chip s.seg)

/-! ## PRINT -/

/-- The equality the spec marks derived at R90: PRINT leaves what CLEAR and the SETCHARs of its loop leave, but for cp. -/
def Obligations.PrintIsClearThenSetchars : Prop :=
  ∀ (start : Byte) (text : List Byte) (s : State), ∃ t u : State,
    exec (.print start text) s = .next t ∧
    runCommands (.clear :: (printCells start text).map
      fun cell => .setchar (BitVec.ofNat 8 cell.1) cell.2.1 cell.2.2) s = .next u ∧
    t = { u with cp := s.cp + 3 + text.length }

/-- The consequence the spec marks derived at R91: after a PRINT each position holds the mask the loop wrote there, or
blank. -/
def Obligations.PrintedCellsReadBack : Prop :=
  ∀ (start : Byte) (text : List Byte) (s : State) (q : Position), ∃ t : State,
    exec (.print start text) s = .next t ∧
    (∀ (c : Byte) (dp : Bool), (q.val, c, dp) ∈ printCells start text →
      readMask Config.chip t.seg q = cellMask Config.chip c dp) ∧
    ((∀ (c : Byte) (dp : Bool), (q.val, c, dp) ∉ printCells start text) → readMask Config.chip t.seg q = 0x00)

/-- The document's example (R87, 95_test_vectors.md E6): "12.3" at position 0. -/
def Obligations.PrintTwelvePointThree : Prop :=
  ∀ s : State, ∃ t : State,
    exec (.print 0x00 [0x31, 0x32, 0x2E, 0x33]) s = .next t ∧
    readMask Config.chip t.seg 0 = glyph Config.chip 0x31 ∧
    readMask Config.chip t.seg 1 = glyph Config.chip 0x32 ||| ((0x01 : Byte) <<< (dpBit Config.chip).val) ∧
    readMask Config.chip t.seg 2 = glyph Config.chip 0x33 ∧
    ∀ q : Position, 3 ≤ q.val → readMask Config.chip t.seg q = 0x00

/-- R143: when the loop has written position 9, whatever text follows that character and its '.' is ignored (only a '.' right
after the character itself would still belong to it), and the whole command is consumed. -/
def Obligations.LongTextIsTruncated : Prop :=
  ∀ (start : Byte) (text tail : List Byte) (s : State),
    (∃ (c : Byte) (dp : Bool), (9, c, dp) ∈ printCells start text ∧ (dp = true ∨ tail.head? ≠ some 0x2E)) → ∃ t : State,
      exec (.print start text) s = .next t ∧
      exec (.print start (text ++ tail)) s = .next { t with cp := s.cp + 3 + text.length + tail.length }

/-! ## The encoder -/

/-- R102: step 2 gives each of bytes 7 to 13 its own low 5 bits, shifted, over the top 3 bits of the byte before it; bytes
0 to 6 are unchanged, and what leaves byte 13 is dropped. -/
def Obligations.RotationCarriesUpward : Prop :=
  ∀ (x : Buffer) (i : Slot),
    (i.val ≤ 6 → getByte (rotateSpan x) i = getByte x i) ∧
    ∀ j : Slot, 7 ≤ i.val → j.val + 1 = i.val →
      getByte (rotateSpan x) i = (getByte x i <<< 3) ||| (getByte x j >>> 5)

/-- R103: step 3 puts CW_A over the top 3 bits of byte 6 and CW_B over those of byte 13, whatever they held, and changes
no other bit. -/
def Obligations.ControlWordsOverwriteTopBits : Prop :=
  ∀ (cfg : Config) (x : Buffer) (i : Slot) (j : Fin 8),
    (getByte (stampControl cfg x) i).getLsbD j.val =
      if i = 6 ∧ 5 ≤ j.val then cfg.cwA.getLsbD (j.val - 5)
      else if i = 13 ∧ 5 ≤ j.val then cfg.cwB.getLsbD (j.val - 5)
      else (getByte x i).getLsbD j.val

/-- The closed form the spec marks derived at R104. -/
def Obligations.EncodeClosedForm : Prop :=
  ∀ (cfg : Config) (seg : Buffer) (i : Slot),
    (i.val ≤ 5 → getByte (encodeSeg cfg seg) i = getByte seg i) ∧
    getByte (encodeSeg cfg seg) 6 = (getByte seg 6 &&& 0x1F) ||| (cfg.cwA.setWidth 8 <<< 5) ∧
    (∀ j : Slot, 7 ≤ i.val → i.val ≤ 12 → j.val + 1 = i.val →
      getByte (encodeSeg cfg seg) i = (getByte seg i <<< 3) ||| (getByte seg j >>> 5)) ∧
    getByte (encodeSeg cfg seg) 13 =
      ((getByte seg 13 <<< 3) &&& 0x18) ||| (getByte seg 12 >>> 5) ||| (cfg.cwB.setWidth 8 <<< 5)

/-- The stream theorem the spec marks derived at R105: the two frames carry bits 0..52 and 53..105 of SEG in order, each
followed by its control word. -/
def Obligations.FramesCarryTheBuffer : Prop :=
  ∀ (cfg : Config) (seg : Buffer),
    frameOne (encodeSeg cfg seg) =
      ((List.finRange 53).map fun k => segBit seg ⟨k.val, by omega⟩) ++ wordBits cfg.cwA ∧
    frameTwo (encodeSeg cfg seg) =
      ((List.finRange 53).map fun k => segBit seg ⟨53 + k.val, by omega⟩) ++ wordBits cfg.cwB

/-- The consequence the spec marks derived at R106: two buffers encode alike exactly when their first 106 bits agree. -/
def Obligations.EncodeDropsOnlyTheLastSixBits : Prop :=
  ∀ (cfg : Config) (a b : Buffer),
    encodeSeg cfg a = encodeSeg cfg b ↔ ∀ k : Fin 112, k.val < 106 → segBit a k = segBit b k

/-- The rotate-and-restore property the spec marks derived at R107, with its exact condition. -/
def Obligations.UnrotateRestores : Prop :=
  ∀ x : Buffer,
    (∀ i : Slot, i.val ≤ 12 → getByte (unrotate (rotateSpan x)) i = getByte x i) ∧
    getByte (unrotate (rotateSpan x)) 13 = getByte x 13 &&& 0x1F ∧
    getByte (rotateSpan x) 7 &&& 0x07 = getByte x 6 >>> 5 ∧
    (unrotate (rotateSpan x) = x ↔ getByte x 13 >>> 5 = 0x00)

/-! ## The serial protocol -/

/-- R116, R117, R118: the events each procedure appends, in order, and how many; SEG, XFER, CE, cp and the stream are
unchanged. -/
def Obligations.SerialProceduresAppendTheirEvents : Prop :=
  (∀ (v : Bool) (s : State),
    sendBit v s = { s with data := v, clk := false, wire := s.wire ++
      [.set .data v, .wait .step, .set .clk true, .wait .step, .set .clk false, .wait .step] }) ∧
  (∀ (b : Byte) (s : State),
    sendByte b s = { s with data := b.getLsbD 7, clk := false, wire := s.wire ++
      ([0, 1, 2, 3, 4, 5, 6, 7].flatMap fun j => bitEvents (b.getLsbD j)) } ∧
    (byteEvents b).length = 48) ∧
  ∀ s : State,
    sendBlock blockOne s = { s with data := (readXfer 6 s).getLsbD 7, clk := false, wire := s.wire ++
      (([0, 1, 2, 3, 4, 5, 6] : List Slot).flatMap fun i => byteEvents (readXfer i s)) } ∧
    sendBlock blockTwo s = { s with data := (readXfer 13 s).getLsbD 7, clk := false, wire := s.wire ++
      (([7, 8, 9, 10, 11, 12, 13] : List Slot).flatMap fun i => byteEvents (readXfer i s)) } ∧
    (blockEvents s.xfer blockOne).length = 336 ∧ (blockEvents s.xfer blockTwo).length = 336

/-- The counts the spec marks derived at R122: 681 events, 342 `Set` and 339 `Wait`, line by line; and the least time of
R168. -/
def Obligations.RefreshEventCounts : Prop :=
  ∀ s : State, ∃ (t : State) (ev : List Event),
    exec .refresh s = .next t ∧ t.wire = s.wire ++ ev ∧
    ev.length = 681 ∧
    ev.count (.set .data true) + ev.count (.set .data false) = 114 ∧
    ev.count (.set .clk true) = 112 ∧ ev.count (.set .clk false) = 112 ∧
    ev.count (.set .ce true) = 2 ∧ ev.count (.set .ce false) = 2 ∧
    ev.count (.wait .step) = 338 ∧ ev.count (.wait .gap) = 1 ∧
    ∀ cfg : Config, holdTime cfg ev = 338 * tStep cfg + tGap cfg

/-- The shape the spec marks derived at R121: the first 8 events, the 12 around the gap, the last 6. -/
def Obligations.RefreshTraceShape : Prop :=
  ∀ s : State, ∃ (t : State) (ev : List Event),
    exec .refresh s = .next t ∧ t.wire = s.wire ++ ev ∧
    ev.take 8 = [.set .ce true, .set .data ((getByte t.xfer 0).getLsbD 0), .wait .step, .set .clk true, .wait .step,
      .set .clk false, .wait .step, .set .data ((getByte t.xfer 0).getLsbD 1)] ∧
    (ev.drop 335).take 12 = [.set .clk false, .wait .step, .set .data false, .wait .step, .set .ce false, .wait .gap,
      .set .ce true, .wait .step, .set .data ((getByte t.xfer 7).getLsbD 0), .wait .step, .set .clk true, .wait .step] ∧
    ev.drop 675 = [.set .clk true, .wait .step, .set .clk false, .wait .step, .set .data false, .set .ce false]

/-- The sampling theorem the spec marks derived at R123, with R105: from idle lines, an observer that records DATA at the
rises of CLK, or at its falls, gets exactly two records, and they are the first 106 bits of SEG, each half followed by
its control word. -/
def Obligations.ObserverReceivesTheBuffer : Prop :=
  ∀ (edge : Bool) (s : State), linesOf s = idleLevels → ∃ (t : State) (ev : List Event),
    exec .refresh s = .next t ∧ t.wire = s.wire ++ ev ∧
    sample edge idleLevels [] ev = [frameOne t.xfer, frameTwo t.xfer] ∧
    sample edge idleLevels [] ev =
      [((List.finRange 53).map fun k => segBit s.seg ⟨k.val, by omega⟩) ++ wordBits Config.chip.cwA,
       ((List.finRange 53).map fun k => segBit s.seg ⟨53 + k.val, by omega⟩) ++ wordBits Config.chip.cwB]

/-- R159: from idle lines, whatever commands other than REFRESH come first, one REFRESH after them gives the observer
exactly two records, and they are the frames of the SEG that the last of them left. -/
def Obligations.OnlyTheFinalSegIsTransmitted : Prop :=
  ∀ (edge : Bool) (is : List Instr) (s : State), linesOf s = idleLevels → .refresh ∉ is → ∃ (t : State) (ev : List Event),
    runCommands (is ++ [.refresh]) s = .next t ∧ t.wire = s.wire ++ ev ∧
    sample edge idleLevels [] ev = [frameOne (encodeSeg Config.chip t.seg), frameTwo (encodeSeg Config.chip t.seg)]

/-- R125: an observer records the same, and the lines end at the same levels, when the `Set` events that change no line
are left out of a trace. -/
def Obligations.RedundantSetsAreInvisible : Prop :=
  ∀ (edge : Bool) (l : Lines) (records : List (List Bool)) (ev : List Event),
    sample edge l records (visible l ev) = sample edge l records ev ∧ replay l (visible l ev) = replay l ev

/-- The consequence the spec marks derived at R25: what XFER holds makes no difference to any run of commands but in
XFER itself, and after a REFRESH not even there. -/
def Obligations.XferIsUnobservable : Prop :=
  ∀ (is : List Instr) (s : State) (x : Buffer), ∃ (t : State) (y : Buffer),
    runCommands is s = .next t ∧ runCommands is { s with xfer := x } = .next { t with xfer := y } ∧
    (.refresh ∈ is → y = t.xfer)

/-- The consequence the spec draws at R136, for whole runs: after an INIT nothing depends on what SEG, XFER or the lines
held before it: the runs leave the same SEG and the same lines, and add the same events to WIRE. -/
def Obligations.InitForgetsThePast : Prop :=
  ∀ (is : List Instr) (s u : State), ∃ (s' u' : State) (ev : List Event),
    runCommands (.init :: is) s = .next s' ∧ runCommands (.init :: is) u = .next u' ∧
    s'.seg = u'.seg ∧ linesOf s' = linesOf u' ∧ s'.wire = s.wire ++ ev ∧ u'.wire = u.wire ++ ev

/-! ## Encoding and stepping -/

/-- R69: the decoder's verdict is `invalid` exactly in the cases the rule lists. -/
def Obligations.DecoderRejectsExactlyInvalid : Prop :=
  ∀ bs : List Byte,
    (∃ e : DecodeError, decode bs = .error e) ↔
      (bs = [] ∨
      (∃ (op : Byte) (rest : List Byte), bs = op :: rest ∧ (op.toNat = 0 ∨ 6 ≤ op.toNat)) ∨
      (∃ (pos c flags : Byte) (rest : List Byte), bs = 0x03 :: pos :: c :: flags :: rest ∧ flags &&& 0xFE ≠ 0x00) ∨
      (∃ rest : List Byte, bs = 0x03 :: rest ∧ rest.length < 3) ∨
      (∃ rest : List Byte, bs = 0x04 :: rest ∧
        (rest.length < 2 ∨ ∃ (start n : Byte) (text : List Byte), rest = start :: n :: text ∧ text.length < n.toNat)))

/-- Reserved encodings are refused in every state (R70); that the refusal of a reserved opcode is named `reservedOpcode`, and that
of a SETCHAR with a reserved bit set `reservedBits`, is the model's choice (log entry 15). No operand value is reserved: a SETCHAR or
a PRINT with any operands is executed. -/
def Obligations.ReservedEncodingsAreRefused : Prop :=
  ∀ s : State,
    (∀ (op : Byte) (rest : List Byte), s.stream.drop s.cp = op :: rest → (op.toNat = 0 ∨ 6 ≤ op.toNat) →
      step s = .refused (.reservedOpcode op)) ∧
    (∀ (pos c flags : Byte) (rest : List Byte), s.stream.drop s.cp = 0x03 :: pos :: c :: flags :: rest →
      flags &&& 0xFE ≠ 0x00 → step s = .refused (.reservedBits flags)) ∧
    (∀ (pos c : Byte) (dp : Bool) (rest : List Byte),
      s.stream.drop s.cp = 0x03 :: pos :: c :: (if dp then 0x01 else 0x00) :: rest →
      step s = exec (.setchar pos c dp) s ∧ ∃ t : State, step s = .next t) ∧
    (∀ (start n : Byte) (text rest : List Byte), text.length = n.toNat →
      s.stream.drop s.cp = 0x04 :: start :: n :: (text ++ rest) →
      step s = exec (.print start text) s ∧ ∃ t : State, step s = .next t)

/-- The two other refusals: at or past the end of the stream, and exactly there, `endOfStream`; a SETCHAR or PRINT that the
end of the stream cuts short, `cutShort`. The verdict `invalid` is the spec's (R68, R69); that the end of a run is a refusal, and
the two names, are the model's choice (log entries 7 and 15). -/
def Obligations.StreamEndsAreRefusedByName : Prop :=
  ∀ s : State,
    (step s = .refused .endOfStream ↔ s.stream.length ≤ s.cp) ∧
    (∀ rest : List Byte, s.stream.drop s.cp = 0x03 :: rest → rest.length < 3 → step s = .refused .cutShort) ∧
    (∀ rest : List Byte, s.stream.drop s.cp = 0x04 :: rest → rest.length < 2 → step s = .refused .cutShort) ∧
    (∀ (start n : Byte) (text : List Byte), s.stream.drop s.cp = 0x04 :: start :: n :: text → text.length < n.toNat →
      step s = .refused .cutShort)

/-- R60: when the bytes at cp decode to a command, the step is that command's meaning, and cp moves by its length. -/
def Obligations.StepExecutesTheDecodedCommand : Prop :=
  ∀ (s : State) (i : Instr) (n : Nat), decode (s.stream.drop s.cp) = .ok (i, n) → ∃ t : State,
    step s = exec i s ∧ exec i s = .next t ∧ t.cp = s.cp + n

/-- R61, R62, R68: decoding the bytes of a well-formed command gives it back, with its length, whatever follows. -/
def Obligations.DecodeOfEncode : Prop :=
  ∀ (i : Instr) (rest : List Byte), WellFormed i → decode (encode i ++ rest) = .ok (i, (encode i).length)

/-- The other direction: what decodes to a command begins with the bytes of that command, which is well formed. -/
def Obligations.EncodeOfDecode : Prop :=
  ∀ (bs : List Byte) (i : Instr) (n : Nat), decode bs = .ok (i, n) →
    WellFormed i ∧ n = commandLength i ∧ n ≤ bs.length ∧ bs.take n = encode i

/-- The decoding vectors of 95_test_vectors.md section 3.8 (Q1 to Q13); the names of the reasons are the model's (log entry 15). -/
def Obligations.DecodingVectors : Prop :=
  decode [0x01] = .ok (.init, 1) ∧ decode [0x02] = .ok (.clear, 1) ∧ decode [0x05] = .ok (.refresh, 1) ∧
  decode [0x03, 0x02, 0x38, 0x00] = .ok (.setchar 0x02 0x38 false, 4) ∧
  decode [0x03, 0xFF, 0x20, 0x01] = .ok (.setchar 0xFF 0x20 true, 4) ∧
  decode [0x04, 0x00, 0x04, 0x31, 0x32, 0x2E, 0x33] = .ok (.print 0x00 [0x31, 0x32, 0x2E, 0x33], 7) ∧
  decode [0x04, 0x09, 0x00] = .ok (.print 0x09 [], 3) ∧
  decode [0x00] = .error (.reservedOpcode 0x00) ∧ decode [0x06] = .error (.reservedOpcode 0x06) ∧
  decode [0xFF] = .error (.reservedOpcode 0xFF) ∧ decode [0x03, 0x02, 0x38, 0x02] = .error (.reservedBits 0x02) ∧
  decode [0x03, 0x02, 0x38] = .error .cutShort ∧ decode [0x04, 0x00, 0x05, 0x31, 0x32] = .error .cutShort

/-- The opcode table's words (opcode_table.json): the four bytes of a SETCHAR as one big-endian number, which is how the model
reads the table's numbering (log entry 6). -/
def Obligations.SetcharTableWordFields : Prop :=
  ∀ (pos c : Byte) (dp : Bool),
    decodeTableWord 32 (0x03000000 + pos.toNat * 0x10000 + c.toNat * 0x100 + dp.toNat) = some (.setchar pos c dp)

/-- A table word put in the stream at cp is the command that the next step executes; how a word is placed is the model's
choice (log entry 12). -/
def Obligations.PlacedWordIsExecuted : Prop :=
  ∀ (s : State) (nbits w : Nat) (i : Instr), decodeTableWord nbits w = some i →
    step (s.withFetchWord nbits w) = exec i (s.withFetchWord nbits w) ∧
    (s.withFetchWord nbits w).stream.take s.cp =
      (s.stream ++ List.replicate (s.cp - s.stream.length) 0x00).take s.cp

/-! ## Reset, invariants and runs -/

/-- R32: the state after reset; XFER is the free value the rule asks for, here an uninterpreted constant (log entry 4). -/
def Obligations.ResetState : Prop :=
  (∀ h : Slot, getByte State.reset.seg h = 0x00) ∧ State.reset.xfer = Config.xferAtReset ∧
  State.reset.data = false ∧ State.reset.clk = false ∧ State.reset.ce = false ∧
  State.reset.wire = [] ∧ State.reset.cp = 0

/-- The invariant holds at reset, whatever XFER holds and whatever stream the host hands over. -/
def Obligations.ResetMeetsInv : Prop :=
  ∀ (x : Buffer) (stream : List Byte), Inv { State.reset with xfer := x, stream := stream }

/-- Every step from a state that meets the invariant gives a state that meets it: idle lines (R29), unused bits of SEG
clear (R22), WIRE accounting for the lines (R28), cp inside the stream (R31). -/
def Obligations.StepKeepsInv : Prop :=
  ∀ s t : State, Inv s → step s = .next t → Inv t

/-- Every step, from any state, moves cp forward by 1 to 258, appends to WIRE only, and leaves the stream alone. -/
def Obligations.StepMovesForward : Prop :=
  ∀ s t : State, step s = .next t →
    s.cp < t.cp ∧ t.cp ≤ s.cp + 258 ∧ t.cp ≤ s.stream.length ∧ s.wire <+: t.wire ∧ t.stream = s.stream

/-- In every reachable state the lines are idle (R29), the unused bits of SEG are clear (R22), the stream is the one
handed over, and the rotation loses nothing (R106, R107). -/
def Obligations.ReachableStatesLoseNothing : Prop :=
  ∀ (stream : List Byte) (s : State), Reachable stream s →
    linesOf s = idleLevels ∧ UnusedBitsClear s.seg ∧ s.stream = stream ∧ unrotate (rotateSpan s.seg) = s.seg ∧
    ∀ b : Buffer, UnusedBitsClear b → encodeSeg Config.chip b = encodeSeg Config.chip s.seg → b = s.seg

/-- R170, R60, R50: a stream of encoded commands is executed command by command, in order, each to completion, in as many
steps as there are commands; the run is over at the end of the stream. That the model says so by refusing the next step as
`endOfStream` is its own choice (log entry 7). -/
def Obligations.RunFollowsTheStream : Prop :=
  ∀ (is : List Instr) (rest : List Byte) (s : State),
    (∀ i ∈ is, WellFormed i) → s.stream.drop s.cp = is.flatMap encode ++ rest → ∃ t : State,
      core.run is.length s = .next t ∧ runCommands is s = .next t ∧
      t.cp = s.cp + (is.flatMap encode).length ∧ t.stream.drop t.cp = rest ∧
      (rest = [] → step t = .refused .endOfStream)
end

