-- ==== Sys2Proof/Laws/Buffer.lean ====
section
/-! SUPPORT. Reading and writing one byte of a buffer, the bits of a byte made of bits, and a buffer written out. -/

namespace Sys2Proof.Laws

open Sys2Proof.Machine

/-- A read after a write: the byte written, or what was there. -/
theorem getByte_putByte (b : Buffer) (i j : Slot) (v : Byte) :
    getByte (putByte b i v) j = if i = j then v else getByte b j := by
  simp only [getByte, putByte, Fin.getElem_fin, Vector.getElem_set, Fin.ext_iff]

theorem getByte_putByte_same (b : Buffer) (i : Slot) (v : Byte) : getByte (putByte b i v) i = v := by
  simp [getByte_putByte]

theorem getByte_putByte_other (b : Buffer) {i j : Slot} (v : Byte) (h : i ≠ j) :
    getByte (putByte b i v) j = getByte b j := by
  simp [getByte_putByte, h]

theorem getByte_blankBuffer (i : Slot) : getByte blankBuffer i = 0x00 := by
  simp [getByte, blankBuffer]

/-- Two buffers with the same bytes are the same buffer. -/
theorem buffer_ext {a b : Buffer} (h : ∀ i : Slot, getByte a i = getByte b i) : a = b := by
  ext i hi : 1
  exact h ⟨i, hi⟩

/-- Bit j of `byteOfBits f` is `f j`. -/
theorem byteOfBits_getLsbD (f : Fin 8 → Bool) (j : Fin 8) : (byteOfBits f).getLsbD j.val = f j := by
  rw [byteOfBits, BitVec.getLsbD_ofBoolListLE]
  fin_cases j <;> rfl

/-- Two bytes with the same eight bits are the same byte. -/
theorem byte_ext {a b : Byte} (h : ∀ j : Fin 8, a.getLsbD j.val = b.getLsbD j.val) : a = b :=
  BitVec.eq_of_getLsbD_eq fun i hi => h ⟨i, hi⟩

end Sys2Proof.Laws
end

