-- ==== Sys2Proof/Laws/State.lean ====
section
/-! SUPPORT. One small lemma per field of the state and per update, so that no later proof unfolds a record update. -/

namespace Sys2Proof.Laws

open Sys2Proof.Machine

variable (s : State) (h : Slot) (v : Byte) (b : Buffer) (l : Line) (x : Bool) (t : Hold) (n : Nat)

@[simp] theorem writeSeg_seg : (writeSeg h v s).seg = putByte s.seg h v := rfl
@[simp] theorem writeSeg_xfer : (writeSeg h v s).xfer = s.xfer := rfl
@[simp] theorem writeSeg_data : (writeSeg h v s).data = s.data := rfl
@[simp] theorem writeSeg_clk : (writeSeg h v s).clk = s.clk := rfl
@[simp] theorem writeSeg_ce : (writeSeg h v s).ce = s.ce := rfl
@[simp] theorem writeSeg_wire : (writeSeg h v s).wire = s.wire := rfl
@[simp] theorem writeSeg_cp : (writeSeg h v s).cp = s.cp := rfl
@[simp] theorem writeSeg_stream : (writeSeg h v s).stream = s.stream := rfl

@[simp] theorem clearSeg_seg : (clearSeg s).seg = blankBuffer := rfl
@[simp] theorem clearSeg_xfer : (clearSeg s).xfer = s.xfer := rfl
@[simp] theorem clearSeg_data : (clearSeg s).data = s.data := rfl
@[simp] theorem clearSeg_clk : (clearSeg s).clk = s.clk := rfl
@[simp] theorem clearSeg_ce : (clearSeg s).ce = s.ce := rfl
@[simp] theorem clearSeg_wire : (clearSeg s).wire = s.wire := rfl
@[simp] theorem clearSeg_cp : (clearSeg s).cp = s.cp := rfl
@[simp] theorem clearSeg_stream : (clearSeg s).stream = s.stream := rfl

@[simp] theorem loadXfer_seg : (loadXfer b s).seg = s.seg := rfl
@[simp] theorem loadXfer_xfer : (loadXfer b s).xfer = b := rfl
@[simp] theorem loadXfer_data : (loadXfer b s).data = s.data := rfl
@[simp] theorem loadXfer_clk : (loadXfer b s).clk = s.clk := rfl
@[simp] theorem loadXfer_ce : (loadXfer b s).ce = s.ce := rfl
@[simp] theorem loadXfer_wire : (loadXfer b s).wire = s.wire := rfl
@[simp] theorem loadXfer_cp : (loadXfer b s).cp = s.cp := rfl
@[simp] theorem loadXfer_stream : (loadXfer b s).stream = s.stream := rfl

@[simp] theorem setLine_seg : (setLine l x s).seg = s.seg := by cases l <;> rfl
@[simp] theorem setLine_xfer : (setLine l x s).xfer = s.xfer := by cases l <;> rfl
@[simp] theorem setLine_wire : (setLine l x s).wire = s.wire ++ [.set l x] := by cases l <;> rfl
@[simp] theorem setLine_cp : (setLine l x s).cp = s.cp := by cases l <;> rfl
@[simp] theorem setLine_stream : (setLine l x s).stream = s.stream := by cases l <;> rfl
@[simp] theorem setLine_data_data : (setLine .data x s).data = x := rfl
@[simp] theorem setLine_data_clk : (setLine .data x s).clk = s.clk := rfl
@[simp] theorem setLine_data_ce : (setLine .data x s).ce = s.ce := rfl
@[simp] theorem setLine_clk_data : (setLine .clk x s).data = s.data := rfl
@[simp] theorem setLine_clk_clk : (setLine .clk x s).clk = x := rfl
@[simp] theorem setLine_clk_ce : (setLine .clk x s).ce = s.ce := rfl
@[simp] theorem setLine_ce_data : (setLine .ce x s).data = s.data := rfl
@[simp] theorem setLine_ce_clk : (setLine .ce x s).clk = s.clk := rfl
@[simp] theorem setLine_ce_ce : (setLine .ce x s).ce = x := rfl

@[simp] theorem hold_seg : (hold t s).seg = s.seg := rfl
@[simp] theorem hold_xfer : (hold t s).xfer = s.xfer := rfl
@[simp] theorem hold_data : (hold t s).data = s.data := rfl
@[simp] theorem hold_clk : (hold t s).clk = s.clk := rfl
@[simp] theorem hold_ce : (hold t s).ce = s.ce := rfl
@[simp] theorem hold_wire : (hold t s).wire = s.wire ++ [.wait t] := rfl
@[simp] theorem hold_cp : (hold t s).cp = s.cp := rfl
@[simp] theorem hold_stream : (hold t s).stream = s.stream := rfl

@[simp] theorem advance_seg : (advance n s).seg = s.seg := rfl
@[simp] theorem advance_xfer : (advance n s).xfer = s.xfer := rfl
@[simp] theorem advance_data : (advance n s).data = s.data := rfl
@[simp] theorem advance_clk : (advance n s).clk = s.clk := rfl
@[simp] theorem advance_ce : (advance n s).ce = s.ce := rfl
@[simp] theorem advance_wire : (advance n s).wire = s.wire := rfl
@[simp] theorem advance_cp : (advance n s).cp = s.cp + n := rfl
@[simp] theorem advance_stream : (advance n s).stream = s.stream := rfl

end Sys2Proof.Laws
end

