-- ==== Sys2Proof/Laws/FrameBuffer.lean ====
section
/-! SUPPORT. What SetChar and the loop of PRINT can do, said once: they write SEG and nothing else, and what they write
depends on SEG alone. -/

namespace Sys2Proof.Laws

open Sys2Proof.Machine

/-- SetChar on a buffer. -/
def setCharSeg (cfg : Config) (pos : Nat) (c : Byte) (dp : Bool) (b : Buffer) : Buffer :=
  if h : pos < 10 then
    let p : Position := ⟨pos, h⟩
    let m := cellMask cfg c dp
    if isDirect p then putByte b (slotOf p) m
    else
      let b1 := putByte b (slotAbove p) ((getByte b (slotAbove p) &&& 0xFE) ||| bBitOf cfg m)
      putByte b1 (slotOf p) (mainByte cfg m ||| (getByte b1 (slotOf p) &&& 0x01))
  else b

/-- The loop of PRINT on a buffer. -/
def printSeg (cfg : Config) : Nat → List Byte → Buffer → Buffer
  | _, [], b => b
  | pos, [c], b => if pos < 10 then setCharSeg cfg pos c false b else b
  | pos, c :: d :: rest, b =>
    if pos < 10 then
      if d = dotCode then printSeg cfg (pos + 1) rest (setCharSeg cfg pos c true b)
      else printSeg cfg (pos + 1) (d :: rest) (setCharSeg cfg pos c false b)
    else b

/-- SetChar writes SEG and nothing else. -/
theorem setChar_eq (cfg : Config) (pos : Nat) (c : Byte) (dp : Bool) (s : State) :
    setChar cfg pos c dp s = { s with seg := setCharSeg cfg pos c dp s.seg } := by
  unfold setChar setCharSeg
  split
  · simp only [setCell]
    split <;> rfl
  · rfl

/-- The loop of PRINT writes SEG and nothing else. -/
theorem printFrom_eq (cfg : Config) (pos : Nat) (text : List Byte) (s : State) :
    printFrom cfg pos text s = { s with seg := printSeg cfg pos text s.seg } := by
  induction pos, text, s using printFrom.induct cfg <;> unfold printFrom printSeg
  · rfl
  all_goals split_ifs <;> simp_all [setChar_eq]

/-- The two slots of a split cell are different, and differ from those of another split cell's writes. -/
theorem slotAbove_ne_slotOf (p : Position) : slotAbove p ≠ slotOf p := by
  simp only [slotAbove, slotOf, ne_eq, Fin.mk.injEq]
  omega

end Sys2Proof.Laws
end

