-- ==== Sys2Proof/Laws/PerInstr.lean ====
section
/-! SUPPORT. One lemma per command and per family of LAWS.json. -/

namespace Sys2Proof.Laws.EncodeLength

/-- The bytes of a command are as many as its length says, and there is at least one (30_encoding.md R61, R68). -/
def Statement (i : Instr) : Prop := (encode i).length = commandLength i ∧ 0 < commandLength i

theorem init : Statement .init := ⟨rfl, by decide⟩

theorem clear : Statement .clear := ⟨rfl, by decide⟩

theorem setchar (pos c : Byte) (dp : Bool) : Statement (.setchar pos c dp) := by
  simp [Statement, encode, commandLength]

theorem print (start : Byte) (text : List Byte) : Statement (.print start text) := by
  simp [Statement, encode, commandLength]
  omega

theorem refresh : Statement .refresh := ⟨rfl, by decide⟩

end Sys2Proof.Laws.EncodeLength
end

