-- ==== Sys2Proof/Laws/Run.lean ====
section
/-! SUPPORT. One step of a run, for the host's run of steps and for a run of commands. -/

namespace Sys2Proof.Laws

open Sys2Proof.Machine

/-- A run of `k + 1` steps whose first step gives a next state is the run of `k` steps from it. -/
theorem run_succ (M : Host.Core) (k : Nat) {s t : M.State} (h : M.step s = .next t) : M.run (k + 1) s = M.run k t := by
  rw [Host.Core.run, h]

/-- The same for the block. -/
theorem core_run_succ (k : Nat) {s t : State} (h : step s = .next t) : core.run (k + 1) s = core.run k t :=
  run_succ core k h

/-- A run of commands whose first command gives a next state is the run of the others from it. -/
theorem runCommands_cons {i : Instr} {is : List Instr} {s t : State} (h : exec i s = .next t) :
    runCommands (i :: is) s = runCommands is t := by
  simp [runCommands, h]

end Sys2Proof.Laws
end

