-- ==== Sys2Proof/Laws/Serial.lean ====
section
/-! SUPPORT. What the procedures of the serial driver do, said once: the events they append and the levels they leave. -/

namespace Sys2Proof.Laws

open Sys2Proof.Machine

/-- `SendBit` appends its six events and leaves the bit on DATA and CLK low. -/
theorem sendBit_eq (v : Bool) (s : State) :
    sendBit v s = { s with data := v, clk := false, wire := s.wire ++ bitEvents v } := by
  simp [sendBit, setLine, hold, bitEvents]

/-- A sequence of at least one bit: the last one stays on DATA. -/
theorem sendBits_eq (bits : List Bool) (v : Bool) (s : State) :
    (bits ++ [v]).foldl (fun u x => sendBit x u) s =
      { s with data := v, clk := false, wire := s.wire ++ (bits ++ [v]).flatMap bitEvents } := by
  induction bits generalizing s with
  | nil => simp [sendBit_eq]
  | cons x bits ih =>
    rw [List.cons_append, List.foldl_cons, ih, sendBit_eq]
    simp only [List.flatMap_cons, List.append_assoc]

/-- `SendByte` leaves the byte's bit 7 on DATA. -/
theorem sendByte_eq (b : Byte) (s : State) :
    sendByte b s = { s with data := b.getLsbD 7, clk := false, wire := s.wire ++ byteEvents b } := by
  have bits : (List.range 8).map b.getLsbD = ((List.range 7).map b.getLsbD) ++ [b.getLsbD 7] := by
    simp [List.range_succ]
  have events : byteEvents b = ((List.range 8).map b.getLsbD).flatMap bitEvents := by
    simp [byteEvents, List.flatMap_map]
  rw [events, bits, ← sendBits_eq, ← bits, List.foldl_map]
  rfl

/-- `SendBlock` of at least one byte: the last byte's bit 7 stays on DATA. -/
theorem sendBlock_eq (block : List Slot) (i : Slot) (s : State) :
    sendBlock (block ++ [i]) s =
      { s with
        data := (getByte s.xfer i).getLsbD 7
        clk := false
        wire := s.wire ++ blockEvents s.xfer (block ++ [i]) } := by
  induction block generalizing s with
  | nil => simp [sendBlock, sendByte_eq, readXfer, blockEvents]
  | cons j block ih =>
    have first : sendBlock (j :: (block ++ [i])) s = sendBlock (block ++ [i]) (sendByte (readXfer j s) s) := by
      rw [sendBlock, List.foldl_cons, ← sendBlock]
    rw [List.cons_append, first, ih, sendByte_eq]
    simp only [readXfer, blockEvents, List.flatMap_cons, List.append_assoc]

end Sys2Proof.Laws
end

