-- ==== Sys2Proof/Tests/Slice0.lean ====
section
/-! SUPPORT. Tests. Expected values come from spec/95_test_vectors.md (TC1 and TC2 are its two parameter sets) and from
spec/30_encoding.md and spec/opcode_table.json, where each comment says so; the last part shows, for every obligation that has
hypotheses, a concrete case that meets them. -/

set_option maxRecDepth 8000

namespace Sys2Proof.Tests

open Sys2Proof Sys2Proof.Machine

/-- The parameter set TC1 (95_test_vectors.md section 1). -/
def tc1 : Config where
  cwA := 3
  cwB := 6
  splitPlace := Equiv.swap 0 1
  dpPlace := 6
  font := #v[0x3F, 0x06, 0x5B, 0x4F, 0x66, 0x6D, 0x7D, 0x07, 0x7F, 0x6F, 0x77, 0x7C, 0x39, 0x5E, 0x79, 0x71]
  gH := 0x76
  gL := 0x38
  gP := 0x73
  gU := 0x3E
  gMinus := 0x40
  gUnderscore := 0x08
  gEquals := 0x48
  gDegree := 0x63
  degreeCodes := [0x2A, 0xB0]
  stepLessOne := 0
  gapExcess := 0
  hasDim := false

def tc2Place : Vector (Fin 8) 8 := #v[7, 0, 6, 5, 4, 3, 2, 1]

def tc2Mask : Vector (Fin 8) 8 := #v[1, 7, 6, 5, 4, 3, 2, 0]

/-- The parameter set TC2. -/
def tc2 : Config :=
  { tc1 with
    cwA := 1
    cwB := 4
    splitPlace := ⟨fun k => tc2Place[k], fun j => tc2Mask[j], by decide, by decide⟩
    dpPlace := 0 }

/-- A state between commands at the start of a stream, with every byte of SEG at `fill`. -/
def stateOf (fill : Byte) (stream : List Byte) : State where
  seg := Vector.replicate 14 fill
  xfer := Vector.replicate 14 0x00
  data := false
  clk := false
  ce := false
  wire := []
  cp := 0
  stream := stream

/-- SEG after a PRINT of section 3.5, as the rule's loop leaves it. -/
def printedSeg (cfg : Config) (start : Nat) (text : List Byte) : Buffer :=
  (printFrom cfg start text (clearSeg (stateOf 0xAA []))).seg

/-! ## Well-formedness: an ill-formed term for the one check, and the longest well-formed PRINT -/

theorem test_text_of_256_is_ill_formed : ¬ WellFormed (.print 0x00 (List.replicate 256 0x38)) := by decide

theorem test_text_of_255_is_well_formed : WellFormed (.print 0x00 (List.replicate 255 0x38)) := by decide

/-! ## Decoding: bytes written out bit by bit from 30_encoding.md R61, R62 -/

theorem test_decode_init : decode [0b00000001] = .ok (.init, 1) := rfl

theorem test_decode_clear : decode [0b00000010] = .ok (.clear, 1) := rfl

/-- `pos` 2, `c` '8' (0x38), `dp` 1. -/
theorem test_decode_setchar :
    decode [0b00000011, 0b00000010, 0b00111000, 0b00000001] = .ok (.setchar 0x02 0x38 true, 4) := rfl

/-- `start` 1, `n` 2, "5."; the byte after is the next command's. -/
theorem test_decode_print :
    decode [0b00000100, 0b00000001, 0b00000010, 0b00110101, 0b00101110, 0b00000101] =
      .ok (.print 0x01 [0x35, 0x2E], 5) := rfl

theorem test_decode_refresh : decode [0b00000101] = .ok (.refresh, 1) := rfl

/-- The table words of opcode_table.json; the PRINT of its 8-bit row has `start` 0 and `n` 0. -/
theorem test_table_words :
    decodeTableWord 8 0b00000001 = some .init ∧ decodeTableWord 8 0b00000010 = some .clear ∧
    decodeTableWord 32 0b00000011_00001001_01000001_00000001 = some (.setchar 0x09 0x41 true) ∧
    decodeTableWord 8 0b00000100 = some (.print 0x00 []) ∧ decodeTableWord 8 0b00000101 = some .refresh := by
  decide

/-- Bit 1 of a SETCHAR's last byte is reserved (R70). -/
theorem test_table_word_reserved_bit : decodeTableWord 32 0x03094102 = none := by decide

/-- Each row of the table runs as the first command after reset. -/
theorem test_first_step_runs (w : Nat × Nat)
    (hw : w ∈ [(8, 0x01), (8, 0x02), (32, 0x03000000), (8, 0x04), (8, 0x05)]) :
    ∃ t : State, step (State.reset.withFetchWord w.1 w.2) = .next t := by
  simp only [List.mem_cons, List.not_mem_nil, or_false] at hw
  rcases hw with rfl | rfl | rfl | rfl | rfl <;> exact ⟨_, rfl⟩

/-! ## Parameters -/

/-- SPLIT_POS, B_BIT and DP_BIT of section 1 under both sets. -/
theorem test_parameters :
    (List.finRange 8).map (splitPos tc1) = [1, 0, 2, 3, 4, 5, 6, 7] ∧
    (List.finRange 8).map (splitPos tc2) = [7, 0, 6, 5, 4, 3, 2, 1] ∧
    bBit tc1 = 1 ∧ bBit tc2 = 1 ∧ dpBit tc1 = 7 ∧ dpBit tc2 = 7 := by decide

/-! ## SETCHAR and its functions -/

/-- G1 to G11. -/
theorem test_glyph :
    ([0x30, 0x39, 0x61, 0x41, 0x66, 0x46, 0x68, 0x48, 0x67, 0x47, 0x20, 0x2E, 0x00, 0xFF, 0x3A, 0x2F, 0x40, 0x60, 0x2D,
      0x5F, 0x3D, 0x2A, 0xB0] : List Byte).map (glyph tc1) =
    [0x3F, 0x6F, 0x77, 0x77, 0x71, 0x71, 0x76, 0x76, 0x00, 0x00, 0x00, 0x00, 0x00, 0x00, 0x00, 0x00, 0x00, 0x00, 0x40,
      0x08, 0x48, 0x63, 0x63] := by decide

/-- M1 to M10, under TC2. -/
theorem test_main :
    ([0x00, 0xFF, 0x02, 0x01, 0x80, 0x7F, 0x06, 0xDB, 0x4F, 0xFD] : List Byte).map (mainByte tc2) =
      [0x00, 0xFE, 0x00, 0x80, 0x02, 0xFC, 0x40, 0xB6, 0xE4, 0xFE] := by decide

/-- S9: a blank at position 3, over bytes 0xFF. -/
theorem test_setchar_blank_split :
    (setChar tc1 3 0x20 false (stateOf 0xFF [])).seg =
      #v[0xFF, 0xFF, 0xFF, 0xFF, 0xFF, 0xFF, 0x01, 0xFE, 0xFF, 0xFF, 0xFF, 0xFF, 0xFF, 0xFF] := by decide

/-- The counter-example to the rejected variant of 90_conflicts.md C2, under TC2. -/
theorem test_setchar_keeps_inherited_bit :
    (setChar tc2 1 0x31 false (setChar tc2 2 0x38 false (stateOf 0x00 []))).seg =
      #v[0x00, 0x00, 0x00, 0x00, 0x00, 0x00, 0x00, 0xFC, 0x41, 0x01, 0x00, 0x00, 0x00, 0x00] := by decide

/-! ## PRINT -/

/-- T5: the '.' after the tenth character is folded into position 9. -/
theorem test_print_full :
    printedSeg tc2 0 [0x30, 0x31, 0x32, 0x33, 0x34, 0x35, 0x36, 0x37, 0x38, 0x39, 0x2E] =
      #v[0xEF, 0x7F, 0x07, 0x7D, 0x6D, 0x66, 0xE4, 0xB5, 0x41, 0xF9, 0x01, 0x00, 0x00, 0x00] := by decide

/-- T2, T4, T7, read back: a leading '.', a '.' after a folded '.', a text cut off at the right edge. -/
theorem test_print_dots_and_edge :
    (List.finRange 10).map (readMask tc1 (printedSeg tc1 0 [0x2E, 0x35])) = [0x00, 0x6D, 0, 0, 0, 0, 0, 0, 0, 0] ∧
    (List.finRange 10).map (readMask tc1 (printedSeg tc1 0 [0x31, 0x2E, 0x2E])) = [0x86, 0, 0, 0, 0, 0, 0, 0, 0, 0] ∧
    (List.finRange 10).map (readMask tc1 (printedSeg tc1 8 [0x31, 0x32, 0x2E, 0x33])) =
      [0, 0, 0, 0, 0, 0, 0, 0, 0x06, 0xDB] := by decide

/-! ## REFRESH -/

/-- X9 under TC2, and its step 2 undone. -/
theorem test_encode :
    encodeSeg tc2 #v[0x01, 0x23, 0x45, 0x67, 0x89, 0xAB, 0xCD, 0xEF, 0x10, 0x32, 0x54, 0x76, 0x98, 0xBA] =
      #v[0x01, 0x23, 0x45, 0x67, 0x89, 0xAB, 0x2D, 0x7E, 0x87, 0x90, 0xA1, 0xB2, 0xC3, 0x94] ∧
    unrotate (rotateSpan #v[0x01, 0x23, 0x45, 0x67, 0x89, 0xAB, 0xCD, 0xEF, 0x10, 0x32, 0x54, 0x76, 0x98, 0xBA]) =
      #v[0x01, 0x23, 0x45, 0x67, 0x89, 0xAB, 0xCD, 0xEF, 0x10, 0x32, 0x54, 0x76, 0x98, 0x1A] := by decide

/-- W1 and W9: the XFER of program P1 under TC1. Of the 681 events, 339 are `Wait`, and 246 of the other 342 change a
line. -/
theorem test_refresh_events :
    (refreshEvents #v[0x00, 0x00, 0x00, 0x00, 0x00, 0x00, 0x60, 0x70, 0xDA, 0x2E, 0x08, 0x00, 0x00, 0xC0]).length = 681 ∧
    (visible idleLevels
      (refreshEvents #v[0x00, 0x00, 0x00, 0x00, 0x00, 0x00, 0x60, 0x70, 0xDA, 0x2E, 0x08, 0x00, 0x00, 0xC0])).length =
      246 + 339 := by decide

/-! ## INIT and CLEAR: C3, C1 -/

theorem test_init :
    exec .init { stateOf 0xAA [] with data := true, ce := true, wire := [.wait .gap] } =
      .next { stateOf 0x00 [] with wire := [.wait .gap, .set .data false, .set .clk false, .set .ce false], cp := 1 } :=
  rfl

theorem test_clear : exec .clear (stateOf 0xAA []) = .next { stateOf 0x00 [] with cp := 1 } := rfl

/-! ## Witnesses: the hypotheses of the obligations are met, at the ends of each clause's range -/

/-- Clauses: positions 10 and 255; 4 and 9 (slots 5 and 0); 0 and 3 (slots 9 and 6, with 10 and 7 above). -/
theorem witness_SetcharWritesItsBytes :
    (10 ≤ (0x0A : Byte).toNat ∧ 10 ≤ (0xFF : Byte).toNat) ∧
    ((0x04 : Byte).toNat < 10 ∧ (5 : Slot).val = 9 - (0x04 : Byte).toNat ∧ (5 : Slot).val ≤ 5) ∧
    ((0x09 : Byte).toNat < 10 ∧ (0 : Slot).val = 9 - (0x09 : Byte).toNat ∧ (0 : Slot).val ≤ 5) ∧
    ((0x00 : Byte).toNat < 10 ∧ (9 : Slot).val = 9 - (0x00 : Byte).toNat ∧ 6 ≤ (9 : Slot).val ∧
      (10 : Slot).val = (9 : Slot).val + 1) ∧
    ((0x03 : Byte).toNat < 10 ∧ (6 : Slot).val = 9 - (0x03 : Byte).toNat ∧ 6 ≤ (6 : Slot).val ∧
      (7 : Slot).val = (6 : Slot).val + 1) := by decide

theorem witness_OnlyTheirCommandsWrite :
    Instr.clear ≠ .refresh ∧ Instr.clear ≠ .init ∧ (Instr.refresh = .refresh) := by decide

theorem witness_OutOfRangePositionsAreIgnored : 10 ≤ (0x0A : Byte).toNat ∧ 10 ≤ (0xFF : Byte).toNat := by decide

theorem witness_WritersAreIdempotent :
    Instr.init ≠ .refresh ∧ Instr.print 0x00 [0x38] ≠ .refresh ∧ Instr.print 0x00 [0x38] ≠ .init := by decide

/-- The ends of the three ranges of the font table, a degree code of TC1, and a code that no row maps. -/
theorem witness_GlyphFollowsTheTable :
    (0x30 ≤ (0x39 : Byte).toNat ∧ (0x39 : Byte).toNat ≤ 0x39 ∧ (9 : Fin 16).val = (0x39 : Byte).toNat - 0x30) ∧
    (0x41 ≤ (0x46 : Byte).toNat ∧ (0x46 : Byte).toNat ≤ 0x46 ∧ (15 : Fin 16).val = (0x46 : Byte).toNat - 0x41 + 10) ∧
    (0x61 ≤ (0x61 : Byte).toNat ∧ (0x61 : Byte).toNat ≤ 0x66 ∧ (10 : Fin 16).val = (0x61 : Byte).toNat - 0x61 + 10) ∧
    isDegreeAlias tc1 0xB0 = true ∧
    (¬ (0x30 ≤ (0x2E : Byte).toNat ∧ (0x2E : Byte).toNat ≤ 0x39) ∧
      ¬ (0x41 ≤ (0x2E : Byte).toNat ∧ (0x2E : Byte).toNat ≤ 0x46) ∧
      ¬ (0x61 ≤ (0x2E : Byte).toNat ∧ (0x2E : Byte).toNat ≤ 0x66) ∧
      (0x2E : Byte) ∉ ([0x48, 0x68, 0x4C, 0x6C, 0x50, 0x70, 0x55, 0x75, 0x2D, 0x5F, 0x3D] : List Byte) ∧
      isDegreeAlias tc1 0x2E = false) := by decide

/-- A bit that is not B_BIT, and two different masks that agree off B_BIT. -/
theorem witness_MainRemapsSevenBits :
    (0 : Fin 8) ≠ bBit tc1 ∧ (0xFF : Byte) ≠ 0xFD ∧
    ∀ k : Fin 8, k ≠ bBit tc1 → (0xFF : Byte).getLsbD k.val = (0xFD : Byte).getLsbD k.val := by decide

theorem witness_EveryConfigIsLegal :
    (7 : Fin 8) ≠ bBit tc2 ∧ (1 : Fin 8) ≠ 0 ∧ isDegreeAlias tc2 0x2A = true := by decide

/-- The set TC2: B_BIT 1, DP_BIT 7, its SPLIT_POS and degree codes, T_STEP 1 and T_GAP 2. -/
theorem witness_EveryLegalSetIsAConfig :
    (7 : Fin 8) ≠ 1 ∧ (∀ k : Fin 8, k ≠ 1 → splitPos tc2 k ≠ 0) ∧
    (∀ k l : Fin 8, k ≠ 1 → l ≠ 1 → splitPos tc2 k = splitPos tc2 l → k = l) ∧
    (∀ c ∈ ([0x2A, 0xB0] : List Byte), ¬ (0x30 ≤ c.toNat ∧ c.toNat ≤ 0x39) ∧ ¬ (0x41 ≤ c.toNat ∧ c.toNat ≤ 0x46) ∧
      ¬ (0x61 ≤ c.toNat ∧ c.toNat ≤ 0x66) ∧
      c ∉ ([0x48, 0x68, 0x4C, 0x6C, 0x50, 0x70, 0x55, 0x75, 0x2D, 0x5F, 0x3D] : List Byte)) ∧
    0 < 1 ∧ 1 < 2 := by decide

/-- Positions 0 and 3, with a bit kept in slot h, in the slot above it, and elsewhere. -/
theorem witness_SplitWriteFootprint :
    ((0x00 : Byte).toNat ≤ 3 ∧ (9 : Slot).val = 9 - (0x00 : Byte).toNat ∧ (10 : Slot).val = (9 : Slot).val + 1) ∧
    ((0x03 : Byte).toNat ≤ 3 ∧ (6 : Slot).val = 9 - (0x03 : Byte).toNat ∧ (7 : Slot).val = (6 : Slot).val + 1) ∧
    (¬ ((6 : Slot) = 6 ∧ (0 : Fin 8) ≠ 0) ∧ ¬ ((6 : Slot) = 7 ∧ (0 : Fin 8) = 0)) ∧
    (¬ ((7 : Slot) = 6 ∧ (1 : Fin 8) ≠ 0) ∧ ¬ ((7 : Slot) = 7 ∧ (1 : Fin 8) = 0)) := by decide

theorem witness_WriteReadsBackAndKeepsOthers :
    (0x03 : Byte).toNat = (3 : Position).val ∧ (0x09 : Byte).toNat = (9 : Position).val ∧ (4 : Position) ≠ 3 := by decide

/-- A '.' at positions 0 and 9, in a configuration where it is no degree code. -/
theorem witness_UnknownCharacterBlanksTheCell :
    (0x00 : Byte).toNat = (0 : Position).val ∧ (0x09 : Byte).toNat = (9 : Position).val ∧
    ¬ (0x30 ≤ (0x2E : Byte).toNat ∧ (0x2E : Byte).toNat ≤ 0x39) ∧
    ¬ (0x41 ≤ (0x2E : Byte).toNat ∧ (0x2E : Byte).toNat ≤ 0x46) ∧
    ¬ (0x61 ≤ (0x2E : Byte).toNat ∧ (0x2E : Byte).toNat ≤ 0x66) ∧
    (0x2E : Byte) ∉ ([0x48, 0x68, 0x4C, 0x6C, 0x50, 0x70, 0x55, 0x75, 0x2D, 0x5F, 0x3D] : List Byte) ∧
    isDegreeAlias tc1 0x2E = false ∧ (3 : Position).val ≤ 3 ∧ (7 : Slot).val = 10 - (3 : Position).val := by decide

/-- Two split positions that share a byte, and two positions that are out of range. -/
theorem witness_WriteOrderDoesNotMatter : (0x02 : Byte) ≠ 0x03 ∧ (0x0A : Byte) ≠ 0xFF := by decide

/-- "12.3" at position 0: position 1 is written, with its point; position 9 is not. -/
theorem witness_PrintedCellsReadBack :
    ((1 : Position).val, (0x32 : Byte), true) ∈ printCells 0x00 [0x31, 0x32, 0x2E, 0x33] ∧
    ∀ c dp, ((9 : Position).val, c, dp) ∉ printCells 0x00 [0x31, 0x32, 0x2E, 0x33] := by
  refine ⟨by decide, fun c dp h => ?_⟩
  have e : printCells 0x00 [0x31, 0x32, 0x2E, 0x33] = [(0, 0x31, false), (1, 0x32, true), (2, 0x33, false)] := by decide
  rw [e] at h
  simp at h

theorem witness_PrintTwelvePointThree : 3 ≤ (3 : Position).val ∧ 3 ≤ (9 : Position).val := by decide

/-- At position 9, "8." followed by "." and "8" followed by "9". -/
theorem witness_LongTextIsTruncated :
    (∃ (c : Byte) (dp : Bool), (9, c, dp) ∈ printCells 0x09 [0x38, 0x2E] ∧
      (dp = true ∨ ([0x2E] : List Byte).head? ≠ some 0x2E)) ∧
    (∃ (c : Byte) (dp : Bool), (9, c, dp) ∈ printCells 0x09 [0x38] ∧
      (dp = true ∨ ([0x39] : List Byte).head? ≠ some 0x2E)) :=
  ⟨⟨0x38, true, by decide⟩, ⟨0x38, false, by decide⟩⟩

theorem witness_RotationCarriesUpward :
    (6 : Slot).val ≤ 6 ∧ (7 ≤ (7 : Slot).val ∧ (6 : Slot).val + 1 = (7 : Slot).val) ∧
    (7 ≤ (13 : Slot).val ∧ (12 : Slot).val + 1 = (13 : Slot).val) := by decide

theorem witness_EncodeClosedForm :
    (5 : Slot).val ≤ 5 ∧ (7 ≤ (7 : Slot).val ∧ (7 : Slot).val ≤ 12 ∧ (6 : Slot).val + 1 = (7 : Slot).val) ∧
    (7 ≤ (12 : Slot).val ∧ (12 : Slot).val ≤ 12 ∧ (11 : Slot).val + 1 = (12 : Slot).val) := by decide

/-- Two different buffers that agree on their first 106 bits. -/
theorem witness_EncodeDropsOnlyTheLastSixBits :
    (#v[0, 0, 0, 0, 0, 0, 0, 0, 0, 0, 0, 0, 0, 0x03] : Buffer) ≠ #v[0, 0, 0, 0, 0, 0, 0, 0, 0, 0, 0, 0, 0, 0xFF] ∧
    ∀ k : Fin 112, k.val < 106 →
      segBit #v[0, 0, 0, 0, 0, 0, 0, 0, 0, 0, 0, 0, 0, 0x03] k =
        segBit #v[0, 0, 0, 0, 0, 0, 0, 0, 0, 0, 0, 0, 0, 0xFF] k := by decide

/-- A buffer that the rotation does not lose, and slot 12. -/
theorem witness_UnrotateRestores :
    (12 : Slot).val ≤ 12 ∧
    getByte #v[0x01, 0x23, 0x45, 0x67, 0x89, 0xAB, 0xCD, 0xEF, 0x10, 0x32, 0x54, 0x76, 0x98, 0x1A] 13 >>> 5 = 0x00 := by
  decide

/-- The lines are idle at reset and in a state with every segment on. -/
theorem witness_ObserverReceivesTheBuffer :
    linesOf State.reset = idleLevels ∧ linesOf (stateOf 0xFF []) = idleLevels := ⟨rfl, rfl⟩

theorem witness_OnlyTheFinalSegIsTransmitted :
    linesOf (stateOf 0xFF []) = idleLevels ∧
    Instr.refresh ∉ [.init, .print 0x00 [0x38], .setchar 0x01 0x31 true] := by decide

theorem witness_XferIsUnobservable : Instr.refresh ∈ [.clear, .refresh] := by decide

/-- Opcodes 0x00, 0x06 and 0xFF, a SETCHAR with reserved bit 1 set and with bit 7 set, and a SETCHAR and a PRINT (of no text
and of one code) that are executed. -/
theorem witness_ReservedEncodingsAreRefused :
    ((stateOf 0x00 [0x00]).stream.drop (stateOf 0x00 [0x00]).cp = [0x00] ∧ (0x00 : Byte).toNat = 0) ∧
    ((stateOf 0x00 [0x06, 0x01]).stream.drop (stateOf 0x00 [0x06, 0x01]).cp = [0x06, 0x01] ∧ 6 ≤ (0x06 : Byte).toNat) ∧
    6 ≤ (0xFF : Byte).toNat ∧
    (stateOf 0x00 [0x03, 0x02, 0x38, 0x02]).stream.drop (stateOf 0x00 [0x03, 0x02, 0x38, 0x02]).cp =
      [0x03, 0x02, 0x38, 0x02] ∧
    ((0x02 : Byte) &&& 0xFE ≠ 0x00 ∧ (0x80 : Byte) &&& 0xFE ≠ 0x00) ∧
    (stateOf 0x00 [0x03, 0xFF, 0x38, 0x01]).stream.drop 0 = [0x03, 0xFF, 0x38, if true then 0x01 else 0x00] ∧
    ((stateOf 0x00 [0x04, 0xFF, 0x00]).stream.drop 0 = [0x04, 0xFF, 0x00] ++ ([] : List Byte) ∧
      ([] : List Byte).length = (0x00 : Byte).toNat) ∧
    ((stateOf 0x00 [0x04, 0x09, 0x01, 0x38, 0x05]).stream.drop 0 = 0x04 :: 0x09 :: 0x01 :: ([0x38] ++ [0x05]) ∧
      ([0x38] : List Byte).length = (0x01 : Byte).toNat) := by decide

/-- An empty stream, and SETCHAR and PRINT one byte short at each place where the stream can end. -/
theorem witness_StreamEndsAreRefusedByName :
    (stateOf 0x00 []).stream.length ≤ (stateOf 0x00 []).cp ∧
    ((stateOf 0x00 [0x03, 0x02, 0x38]).stream.drop 0 = [0x03, 0x02, 0x38] ∧ ([0x02, 0x38] : List Byte).length < 3) ∧
    ((stateOf 0x00 [0x04, 0x00]).stream.drop 0 = [0x04, 0x00] ∧ ([0x00] : List Byte).length < 2) ∧
    ((stateOf 0x00 [0x04, 0x00, 0x02, 0x31]).stream.drop 0 = [0x04, 0x00, 0x02, 0x31] ∧
      ([0x31] : List Byte).length < (0x02 : Byte).toNat) := by decide

/-- A PRINT at the second command of a stream. -/
theorem witness_StepExecutesTheDecodedCommand :
    decode ({ stateOf 0x00 [0x02, 0x04, 0x00, 0x01, 0x38, 0x05] with cp := 1 }.stream.drop 1) =
      .ok (.print 0x00 [0x38], 4) := rfl

theorem witness_DecodeOfEncode :
    WellFormed (.print 0xFF (List.replicate 255 0x38)) ∧ WellFormed (.setchar 0xFF 0xFF true) := by decide

theorem witness_EncodeOfDecode : decode [0x03, 0xFF, 0x20, 0x01, 0x05] = .ok (.setchar 0xFF 0x20 true, 4) := rfl

theorem witness_PlacedWordIsExecuted :
    decodeTableWord 8 0x05 = some .refresh ∧ decodeTableWord 32 0x03FF2001 = some (.setchar 0xFF 0x20 true) := by decide

/-- A state with an '8' at position 9 that meets the invariant, and its next step. -/
theorem witness_StepKeepsInv :
    Inv { stateOf 0x00 [0x02] with seg := #v[0x7F, 0, 0, 0, 0, 0, 0, 0, 0, 0, 0, 0, 0, 0] } ∧
    step { stateOf 0x00 [0x02] with seg := #v[0x7F, 0, 0, 0, 0, 0, 0, 0, 0, 0, 0, 0, 0, 0] } =
      .next { stateOf 0x00 [0x02] with cp := 1 } := ⟨by decide, rfl⟩

theorem witness_StepMovesForward : step (stateOf 0xFF [0x02]) = .next { stateOf 0x00 [0x02] with cp := 1 } := rfl

/-- One step from reset of the stream `02` (CLEAR); and a buffer with its unused bits clear. -/
theorem witness_ReachableStatesLoseNothing :
    Reachable [0x02] { State.reset with xfer := Vector.replicate 14 0x00, stream := [0x02], cp := 1 } ∧
    UnusedBitsClear #v[0xFF, 0, 0, 0, 0, 0, 0xFE, 0xFF, 0, 0, 0x01, 0, 0, 0] :=
  ⟨.next _ _ (.start (Vector.replicate 14 0x00)) rfl, by decide⟩

/-- Program P1 of section 4, with nothing after it. -/
theorem witness_RunFollowsTheStream :
    (∀ i ∈ [.init, .print 0x00 [0x31, 0x32, 0x2E, 0x33], .refresh], WellFormed i) ∧
    (stateOf 0x00 [0x01, 0x04, 0x00, 0x04, 0x31, 0x32, 0x2E, 0x33, 0x05]).stream.drop 0 =
      [.init, .print 0x00 [0x31, 0x32, 0x2E, 0x33], .refresh].flatMap encode ++ [] := by decide

end Sys2Proof.Tests
end

/-! The next state of each command, written out field by field: the rules that statements about exec are proved from. -/

namespace Sys2Proof.Laws

open Sys2Proof.Machine

/-- INIT: SEG cleared, the lines idle, and three `Set` events in the order of R135. -/
theorem exec_init (s : State) :
    exec .init s = .next { s with
      seg := blankBuffer
      data := false
      clk := false
      ce := false
      wire := s.wire ++ [.set .data false, .set .clk false, .set .ce false]
      cp := s.cp + 1 } := by
  simp [exec, execInit, idleLines, setLine, clearSeg, advance]

/-- CLEAR writes SEG and cp. -/
theorem exec_clear (s : State) : exec .clear s = .next { s with seg := blankBuffer, cp := s.cp + 1 } := rfl

/-- SETCHAR writes SEG and cp. -/
theorem exec_setchar (pos c : Byte) (dp : Bool) (s : State) :
    exec (.setchar pos c dp) s =
      .next { s with seg := setCharSeg Config.chip pos.toNat c dp s.seg, cp := s.cp + 4 } := by
  simp only [exec, execSetchar, setChar_eq, advance]

/-- PRINT writes SEG, from a blank buffer (R87), and cp. -/
theorem exec_print (start : Byte) (text : List Byte) (s : State) :
    exec (.print start text) s =
      .next { s with seg := printSeg Config.chip start.toNat text blankBuffer, cp := s.cp + (3 + text.length) } := by
  simp only [exec, execPrint, printFrom_eq, clearSeg, advance]

/-- The block that starts at byte 0: byte 6's bit 7 stays on DATA. -/
theorem sendBlock_blockOne (s : State) :
    sendBlock blockOne s = { s with
      data := (getByte s.xfer 6).getLsbD 7
      clk := false
      wire := s.wire ++ blockEvents s.xfer blockOne } :=
  sendBlock_eq [0, 1, 2, 3, 4, 5] 6 s

/-- The block that starts at byte 7: byte 13's bit 7 stays on DATA. -/
theorem sendBlock_blockTwo (s : State) :
    sendBlock blockTwo s = { s with
      data := (getByte s.xfer 13).getLsbD 7
      clk := false
      wire := s.wire ++ blockEvents s.xfer blockTwo } :=
  sendBlock_eq [7, 8, 9, 10, 11, 12] 13 s

/-- A transmission appends the events of R119 for XFER and leaves the lines idle. -/
theorem transmit_eq (s : State) :
    transmit s = { s with data := false, clk := false, ce := false, wire := s.wire ++ refreshEvents s.xfer } := by
  have events : refreshEvents s.xfer = [.set .ce true] ++ blockEvents s.xfer blockOne
      ++ [.set .data false, .wait .step, .set .ce false, .wait .gap, .set .ce true, .wait .step]
      ++ blockEvents s.xfer blockTwo ++ [.set .data false, .set .ce false] := rfl
  simp [transmit, sendBlock_blockOne, sendBlock_blockTwo, blockGap, setLine, hold, events]

/-- REFRESH loads XFER with the encoding of SEG and transmits it. -/
theorem exec_refresh (s : State) :
    exec .refresh s = .next { s with
      xfer := encodeSeg Config.chip s.seg
      data := false
      clk := false
      ce := false
      wire := s.wire ++ refreshEvents (encodeSeg Config.chip s.seg)
      cp := s.cp + 1 } := by
  simp only [exec, execRefresh, transmit_eq, loadXfer, advance]

end Sys2Proof.Laws

/-! The statements of 10_state.md: the state after reset, and the command pointer. -/

namespace Sys2Proof.Proofs

open Sys2Proof.Machine Sys2Proof.Laws

/-- Settles O48: each field is read off State.reset, whose SEG is the blank buffer. -/
theorem resetState : Obligations.ResetState :=
  ⟨getByte_blankBuffer, rfl, rfl, rfl, rfl, rfl, rfl⟩

/-- Settles O7: in each command's next state only cp is computed from cp, so the equation of the command gives both
its next state from `s` and the one from `s` with another cp. -/
theorem cpAdvancesByLength : Obligations.CpAdvancesByLength := by
  refine ⟨rfl, fun i s => ?_⟩
  cases i with
  | init => exact ⟨_, exec_init s, fun k => exec_init { s with cp := k }⟩
  | clear => exact ⟨_, exec_clear s, fun k => exec_clear { s with cp := k }⟩
  | setchar pos c dp => exact ⟨_, exec_setchar pos c dp s, fun k => exec_setchar pos c dp { s with cp := k }⟩
  | print start text => exact ⟨_, exec_print start text s, fun k => exec_print start text { s with cp := k }⟩
  | refresh => exact ⟨_, exec_refresh s, fun k => exec_refresh { s with cp := k }⟩

end Sys2Proof.Proofs

/-! The decoder's verdict case by case (R61, R69): one rule per format for each answer it can give. -/

namespace Sys2Proof.Laws

theorem decode_setchar (rest : List Byte) : decode (0x03 :: rest) = decodeSetchar rest := rfl

theorem decode_print (rest : List Byte) : decode (0x04 :: rest) = decodePrint rest := rfl

/-- Every byte is one of the five opcodes or reserved (R70). -/
theorem opcode_cases (op : Byte) :
    op = 0x01 ∨ op = 0x02 ∨ op = 0x03 ∨ op = 0x04 ∨ op = 0x05 ∨ op.toNat = 0 ∨ 6 ≤ op.toNat := by
  bv_omega

theorem decode_reservedOpcode {op : Byte} (rest : List Byte) (h : op.toNat = 0 ∨ 6 ≤ op.toNat) :
    decode (op :: rest) = .error (.reservedOpcode op) := by
  have notOpcode : op ≠ 0x01 ∧ op ≠ 0x02 ∧ op ≠ 0x03 ∧ op ≠ 0x04 ∧ op ≠ 0x05 := by bv_omega
  simp only [decode, notOpcode, if_false]

theorem decodeSetchar_cutShort {rest : List Byte} (h : rest.length < 3) :
    decodeSetchar rest = .error .cutShort := by
  match rest, h with
  | [], _ => rfl
  | [_], _ => rfl
  | [_, _], _ => rfl

theorem decodeSetchar_reservedBits {flags : Byte} (pos c : Byte) (rest : List Byte) (h : flags &&& 0xFE ≠ 0x00) :
    decodeSetchar (pos :: c :: flags :: rest) = .error (.reservedBits flags) :=
  if_neg h

theorem decodeSetchar_ok {flags : Byte} (pos c : Byte) (rest : List Byte) (h : flags &&& 0xFE = 0x00) :
    decodeSetchar (pos :: c :: flags :: rest) = .ok (.setchar pos c (flags.getLsbD 0), 4) :=
  if_pos h

theorem decodePrint_cutShort_header {rest : List Byte} (h : rest.length < 2) :
    decodePrint rest = .error .cutShort := by
  match rest, h with
  | [], _ => rfl
  | [_], _ => rfl

theorem decodePrint_cutShort_text {n : Byte} {text : List Byte} (start : Byte) (h : text.length < n.toNat) :
    decodePrint (start :: n :: text) = .error .cutShort :=
  if_neg (Nat.not_le.mpr h)

theorem decodePrint_ok {n : Byte} {rest : List Byte} (start : Byte) (h : n.toNat ≤ rest.length) :
    decodePrint (start :: n :: rest) = .ok (.print start (rest.take n.toNat), 3 + n.toNat) :=
  if_pos h

/-- A SETCHAR is invalid when it is cut short or has a reserved bit set, and not otherwise. -/
theorem decodeSetchar_error_iff (rest : List Byte) :
    (∃ e, decodeSetchar rest = .error e) ↔
      rest.length < 3 ∨ ∃ pos c flags tail, rest = pos :: c :: flags :: tail ∧ flags &&& 0xFE ≠ 0x00 := by
  constructor
  · rintro ⟨e, he⟩
    match rest with
    | [] | [_] | [_, _] => exact .inl (by simp)
    | pos :: c :: flags :: tail =>
      refine .inr ⟨pos, c, flags, tail, rfl, fun clear => ?_⟩
      simp [decodeSetchar_ok pos c tail clear] at he
  · rintro (short | ⟨pos, c, flags, tail, rfl, set⟩)
    · exact ⟨_, decodeSetchar_cutShort short⟩
    · exact ⟨_, decodeSetchar_reservedBits pos c tail set⟩

/-- A PRINT is invalid when the stream ends inside its header or inside its text, and not otherwise. -/
theorem decodePrint_error_iff (rest : List Byte) :
    (∃ e, decodePrint rest = .error e) ↔
      rest.length < 2 ∨ ∃ start n text, rest = start :: n :: text ∧ text.length < n.toNat := by
  constructor
  · rintro ⟨e, he⟩
    match rest with
    | [] | [_] => exact .inl (by simp)
    | start :: n :: text =>
      refine .inr ⟨start, n, text, rfl, Nat.not_le.mp fun fits => ?_⟩
      simp [decodePrint_ok start fits] at he
  · rintro (short | ⟨start, n, text, rfl, short⟩)
    · exact ⟨_, decodePrint_cutShort_header short⟩
    · exact ⟨_, decodePrint_cutShort_text start short⟩

end Sys2Proof.Laws

/-! The statements of 30_encoding.md: where the decoder answers invalid. -/

namespace Sys2Proof.Proofs

open Sys2Proof.Laws

/-- Settles O39: the first byte decides which of the rule's cases can apply; for SETCHAR and PRINT their decoder's
error rule says when it does. -/
theorem decoderRejectsExactlyInvalid : Obligations.DecoderRejectsExactlyInvalid := by
  intro bs
  constructor
  · rintro ⟨e, he⟩
    cases bs with
    | nil => exact .inl rfl
    | cons op rest =>
      obtain rfl | rfl | rfl | rfl | rfl | reserved := opcode_cases op
      · cases he
      · cases he
      · obtain short | ⟨pos, c, flags, tail, rfl, set⟩ := (decodeSetchar_error_iff rest).mp ⟨e, he⟩
        · exact .inr (.inr (.inr (.inl ⟨rest, rfl, short⟩)))
        · exact .inr (.inr (.inl ⟨pos, c, flags, tail, rfl, set⟩))
      · exact .inr (.inr (.inr (.inr ⟨rest, rfl, (decodePrint_error_iff rest).mp ⟨e, he⟩⟩)))
      · cases he
      · exact .inr (.inl ⟨op, rest, rfl, reserved⟩)
  · rintro (rfl | ⟨op, rest, rfl, reserved⟩ | ⟨pos, c, flags, rest, rfl, set⟩ | ⟨rest, rfl, short⟩ | ⟨rest, rfl, short⟩)
    · exact ⟨.endOfStream, rfl⟩
    · exact ⟨_, decode_reservedOpcode rest reserved⟩
    · exact ⟨_, decodeSetchar_reservedBits pos c rest set⟩
    · exact ⟨_, decodeSetchar_cutShort short⟩
    · exact (decodePrint_error_iff rest).mpr short

end Sys2Proof.Proofs

/-! The controller's functions case by case: SetChar on each class of position (R85), the loop of PRINT as the list of
its SetChar calls (R87), the glyph table (R81), the bits of a mask (R82) and of a split slot's main byte (R83). -/

namespace Sys2Proof.Laws

open Sys2Proof.Machine

section

variable (cfg : Config)

theorem setCharSeg_outOfRange {pos : Nat} (c : Byte) (dp : Bool) (b : Buffer) (out : 10 ≤ pos) :
    setCharSeg cfg pos c dp b = b :=
  dif_neg (Nat.not_lt.mpr out)

/-- On a direct slot the mask is the whole byte. -/
theorem setCharSeg_direct {pos : Nat} {h : Slot} (c : Byte) (dp : Bool) (b : Buffer) (inRange : pos < 10)
    (slot : h.val = 9 - pos) (direct : h.val ≤ 5) :
    setCharSeg cfg pos c dp b = putByte b h (cellMask cfg c dp) := by
  obtain rfl : h = slotOf ⟨pos, inRange⟩ := Fin.ext slot
  simp only [setCharSeg, inRange, isDirect, direct, decide_true, dite_true, if_true]

/-- On a split slot the mask is spread over the slot and bit 0 of the slot above; the two writes do not meet. -/
theorem setCharSeg_split {pos : Nat} {h above : Slot} (c : Byte) (dp : Bool) (b : Buffer) (inRange : pos < 10)
    (slot : h.val = 9 - pos) (split : 6 ≤ h.val) (next : above.val = h.val + 1) :
    setCharSeg cfg pos c dp b =
      putByte (putByte b above ((getByte b above &&& 0xFE) ||| bBitOf cfg (cellMask cfg c dp))) h
        (mainByte cfg (cellMask cfg c dp) ||| (getByte b h &&& 0x01)) := by
  obtain rfl : h = slotOf ⟨pos, inRange⟩ := Fin.ext slot
  obtain rfl : above = slotAbove ⟨pos, inRange⟩ := Fin.ext (by simp only [slotAbove]; omega)
  have notDirect : ¬ (slotOf ⟨pos, inRange⟩).val ≤ 5 := by omega
  simp only [setCharSeg, inRange, isDirect, notDirect, decide_false, dite_true, Bool.false_eq_true, if_false,
    getByte_putByte_other b _ (slotAbove_ne_slotOf ⟨pos, inRange⟩)]

/-- The SetChar calls of a list of triples, in order, on a buffer. -/
def writeCells (cells : List (Nat × Byte × Bool)) (b : Buffer) : Buffer :=
  cells.foldl (fun b cell => setCharSeg cfg cell.1 cell.2.1 cell.2.2 b) b

/-- The same calls on a state write SEG and nothing else. -/
theorem foldl_setChar_eq (cells : List (Nat × Byte × Bool)) (s : State) :
    cells.foldl (fun u cell => setChar cfg cell.1 cell.2.1 cell.2.2 u) s =
      { s with seg := writeCells cfg cells s.seg } := by
  induction cells generalizing s with
  | nil => rfl
  | cons cell cells ih => rw [List.foldl_cons, setChar_eq, ih]; rfl

theorem printSeg_nil (pos : Nat) (b : Buffer) : printSeg cfg pos [] b = b := by
  simp only [printSeg]

theorem printSeg_outOfRange {pos : Nat} (text : List Byte) (b : Buffer) (out : ¬ pos < 10) :
    printSeg cfg pos text b = b := by
  match text with
  | [] | [_] | _ :: _ :: _ => simp only [printSeg, out, if_false]

/-- One round of the loop: the code after the character decides its decimal point, and is consumed if it is a '.'. -/
theorem printSeg_cons {pos : Nat} (c : Byte) (rest : List Byte) (b : Buffer) (inRange : pos < 10) :
    printSeg cfg pos (c :: rest) b =
      printSeg cfg (pos + 1) (rest.drop (decide (rest.head? = some dotCode)).toNat)
        (setCharSeg cfg pos c (decide (rest.head? = some dotCode)) b) := by
  cases rest with
  | nil => simp [printSeg, inRange]
  | cons d rest => by_cases dot : d = dotCode <;> simp [printSeg, inRange, dot]

/-- The look-ahead at index `i`, as the rule writes it and as the first code of what is left. -/
theorem getD_eq_iff_head?_drop (text : List Byte) (i : Nat) (d : Byte) :
    (i < text.length ∧ text.getD i 0x00 = d) ↔ (text.drop i).head? = some d := by
  rw [List.head?_drop, List.getElem?_eq_some_iff]
  constructor
  · rintro ⟨left, eq⟩
    exact ⟨left, (List.getD_eq_getElem text 0x00 left).symm.trans eq⟩
  · rintro ⟨left, eq⟩
    exact ⟨left, (List.getD_eq_getElem text 0x00 left).trans eq⟩

/-- The loop over what is left of the text from index `i` on makes the calls that `printRounds` lists, if there is fuel
for every code left. -/
theorem printSeg_drop_eq_writeCells (text : List Byte) (fuel i pos : Nat) (b : Buffer)
    (enough : text.length ≤ i + fuel) :
    printSeg cfg pos (text.drop i) b = writeCells cfg (printRounds text fuel i pos) b := by
  induction fuel generalizing i pos b with
  | zero => rw [List.drop_of_length_le (Nat.add_zero i ▸ enough), printSeg_nil]; rfl
  | succ fuel ih =>
    rw [printRounds]
    split
    case isTrue more =>
      obtain ⟨left, inRange⟩ := more
      have rest := ih (i + 1 + (decide ((text.drop (i + 1)).head? = some dotCode)).toNat) (pos + 1)
        (setCharSeg cfg pos text[i] (decide ((text.drop (i + 1)).head? = some dotCode)) b) (by omega)
      rw [List.drop_eq_getElem_cons left, printSeg_cons cfg _ _ _ inRange, List.drop_drop, rest]
      simp only [getD_eq_iff_head?_drop, List.getD_eq_getElem text 0x00 left]
      rfl
    case isFalse done =>
      by_cases inRange : pos < 10
      · have noneLeft : text.length ≤ i := by omega
        rw [List.drop_of_length_le noneLeft, printSeg_nil]; rfl
      · rw [printSeg_outOfRange cfg _ _ inRange]; rfl

/-- The loop of PRINT makes the calls of the rule's while loop. -/
theorem printSeg_eq_writeCells (start : Byte) (text : List Byte) (b : Buffer) :
    printSeg cfg start.toNat text b = writeCells cfg (printCells start text) b :=
  printSeg_drop_eq_writeCells cfg text text.length 0 start.toNat b (Nat.le_add_left _ _)

/-! The glyph table. -/

theorem hexIndex_digit {c : Byte} {d : Fin 16} (low : 0x30 ≤ c.toNat) (high : c.toNat ≤ 0x39)
    (index : d.val = c.toNat - 0x30) : hexIndex c = some d := by
  simp only [hexIndex, low, high, and_self, dite_true, ← index]

theorem hexIndex_upper {c : Byte} {d : Fin 16} (low : 0x41 ≤ c.toNat) (high : c.toNat ≤ 0x46)
    (index : d.val = c.toNat - 0x41 + 10) : hexIndex c = some d := by
  have notDigit : ¬ c.toNat ≤ 0x39 := by omega
  simp only [hexIndex, notDigit, low, high, and_false, and_self, dite_true, dite_false, ← index]

theorem hexIndex_lower {c : Byte} {d : Fin 16} (low : 0x61 ≤ c.toNat) (high : c.toNat ≤ 0x66)
    (index : d.val = c.toNat - 0x61 + 10) : hexIndex c = some d := by
  have notDigit : ¬ c.toNat ≤ 0x39 := by omega
  have notUpper : ¬ c.toNat ≤ 0x46 := by omega
  simp only [hexIndex, notDigit, notUpper, low, high, and_false, and_self, dite_true, dite_false, ← index]

theorem hexIndex_none {c : Byte} (notDigit : ¬ (0x30 ≤ c.toNat ∧ c.toNat ≤ 0x39))
    (notUpper : ¬ (0x41 ≤ c.toNat ∧ c.toNat ≤ 0x46)) (notLower : ¬ (0x61 ≤ c.toNat ∧ c.toNat ≤ 0x66)) :
    hexIndex c = none := by
  simp only [hexIndex, notDigit, notUpper, notLower, dite_false]

/-- The named codes are the eleven listed in R81. -/
theorem namedMask_none {c : Byte}
    (unnamed : c ∉ ([0x48, 0x68, 0x4C, 0x6C, 0x50, 0x70, 0x55, 0x75, 0x2D, 0x5F, 0x3D] : List Byte)) :
    namedMask cfg c = none := by
  simp only [List.mem_cons, List.not_mem_nil, or_false, not_or] at unnamed
  simp only [namedMask, unnamed, or_self, if_false]

theorem glyph_of_hexIndex {c : Byte} {d : Fin 16} (hex : hexIndex c = some d) : glyph cfg c = cfg.font[d] := by
  simp only [glyph, hex]

theorem glyph_of_namedMask {c m : Byte} (notHex : hexIndex c = none) (named : namedMask cfg c = some m) :
    glyph cfg c = m := by
  simp only [glyph, notHex, named]

/-- A degree code is in no other row of the table. -/
theorem glyph_of_isDegreeAlias {c : Byte} (degree : isDegreeAlias cfg c = true) : glyph cfg c = cfg.gDegree := by
  have rows := degree
  simp only [isDegreeAlias, Bool.and_eq_true, Option.isNone_iff_eq_none] at rows
  obtain ⟨⟨-, notHex⟩, unnamed⟩ := rows
  simp only [glyph, notHex, unnamed, degree, if_true]

theorem glyph_unmapped {c : Byte} (notHex : hexIndex c = none) (unnamed : namedMask cfg c = none)
    (notDegree : isDegreeAlias cfg c = false) : glyph cfg c = 0x00 := by
  simp only [glyph, notHex, unnamed, notDegree, Bool.false_eq_true, if_false]

/-! Masks and main bytes, bit by bit. -/

theorem cellMask_false (c : Byte) : cellMask cfg c false = glyph cfg c := by
  simp [cellMask]

/-- The decimal-point request sets bit DP_BIT and no other. -/
theorem cellMask_true_getLsbD (c : Byte) (k : Fin 8) :
    (cellMask cfg c true).getLsbD k.val = ((glyph cfg c).getLsbD k.val || decide (k = dpBit cfg)) := by
  have point : ((0x01 : Byte) <<< (dpBit cfg).val).getLsbD k.val = decide (k = dpBit cfg) :=
    (BitVec.getLsbD_twoPow (dpBit cfg).val k.val).trans (by simp [Fin.ext_iff, eq_comm])
  rw [cellMask, BitVec.getLsbD_or, if_pos rfl, point]

theorem mainByte_getLsbD (m : Byte) (j : Fin 8) :
    (mainByte cfg m).getLsbD j.val = (decide (j ≠ 0) && m.getLsbD (cfg.splitPlace.symm j).val) :=
  byteOfBits_getLsbD _ j

/-- B_BIT alone has place 0, the place that is no place in the main byte. -/
theorem splitPos_eq_zero_iff (k : Fin 8) : splitPos cfg k = 0 ↔ k = bBit cfg :=
  (Equiv.eq_symm_apply cfg.splitPlace).symm

theorem mainByte_getLsbD_splitPos (m : Byte) {k : Fin 8} (notB : k ≠ bBit cfg) :
    (mainByte cfg m).getLsbD (splitPos cfg k).val = m.getLsbD k.val := by
  have place : splitPos cfg k ≠ 0 := mt (splitPos_eq_zero_iff cfg k).mp notB
  rw [mainByte_getLsbD, decide_eq_true place, Bool.true_and, splitPos, Equiv.symm_apply_apply]

/-- A main byte depends on the mask's bits other than B_BIT only. -/
theorem mainByte_congr {m m' : Byte} (agree : ∀ k : Fin 8, k ≠ bBit cfg → m'.getLsbD k.val = m.getLsbD k.val) :
    mainByte cfg m' = mainByte cfg m := by
  refine byte_ext fun j => ?_
  simp only [mainByte_getLsbD]
  by_cases zero : j = 0
  · simp [zero]
  · rw [agree _ (cfg.splitPlace.symm.injective.ne zero)]

theorem mainByte_zero : mainByte cfg 0x00 = 0x00 :=
  byte_ext fun j => (mainByte_getLsbD cfg 0x00 j).trans (by simp)

end

end Sys2Proof.Laws

/-! The statements of 40_framebuffer.md: what CLEAR, SETCHAR and PRINT write, the glyph table, masks and main bytes. -/

namespace Sys2Proof.Proofs

open Sys2Proof.Machine Sys2Proof.Laws

/-- Settles O2: CLEAR's equation, whose blank buffer is 14 zero bytes. -/
theorem clearZeroesSeg : Obligations.ClearZeroesSeg := exec_clear

/-- Settles O3: the three classes of position are the three cases of SetChar on a buffer. -/
theorem setcharWritesItsBytes : Obligations.SetcharWritesItsBytes := by
  intro pos c dp s
  refine ⟨_, exec_setchar pos c dp s, rfl, fun out => ?_, fun h inRange slot direct => ?_,
    fun h above inRange slot split next => ?_⟩
  · exact setCharSeg_outOfRange _ c dp s.seg out
  · simp only [setCharSeg_direct Config.chip c dp s.seg inRange slot direct]
    exact ⟨getByte_putByte_same _ _ _, fun i other => getByte_putByte_other _ _ other.symm⟩
  · have apart : h ≠ above := Fin.ne_of_val_ne (by omega)
    simp only [setCharSeg_split Config.chip c dp s.seg inRange slot split next]
    refine ⟨?_, getByte_putByte_same _ _ _, fun i notH notAbove => ?_⟩
    · rw [getByte_putByte_other _ _ apart, getByte_putByte_same]; rfl
    · rw [getByte_putByte_other _ _ notH.symm, getByte_putByte_other _ _ notAbove.symm]

/-- Settles O4: the loop over the rest of the text makes the calls of the loop over an index, each on SEG alone. -/
theorem printRunsTheLoop : Obligations.PrintRunsTheLoop := by
  intro start text s
  refine ⟨_, exec_print start text s, by simp only [Nat.add_assoc], ?_⟩
  rw [foldl_setChar_eq]
  exact printSeg_eq_writeCells Config.chip start text blankBuffer

/-- Settles O11: each row of the table is a case of `hexIndex`, of `namedMask`, or of neither. -/
theorem glyphFollowsTheTable : Obligations.GlyphFollowsTheTable := by
  intro cfg
  refine ⟨fun c d low high index => glyph_of_hexIndex cfg (hexIndex_digit low high index),
    fun c d low high index => glyph_of_hexIndex cfg (hexIndex_upper low high index),
    fun c d low high index => glyph_of_hexIndex cfg (hexIndex_lower low high index),
    ⟨?_, ?_⟩, ⟨?_, ?_⟩, ⟨?_, ?_⟩, ⟨?_, ?_⟩, ?_, ?_, ?_,
    fun c degree => glyph_of_isDegreeAlias cfg degree,
    fun c notDigit notUpper notLower unnamed notDegree =>
      glyph_unmapped cfg (hexIndex_none notDigit notUpper notLower) (namedMask_none cfg unnamed) notDegree⟩
  all_goals exact glyph_of_namedMask cfg rfl rfl

/-- Settles O12. -/
theorem maskOrsInDecimalPoint : Obligations.MaskOrsInDecimalPoint :=
  fun cfg c => ⟨cellMask_false cfg c, cellMask_true_getLsbD cfg c⟩

/-- Settles O13: bit j of a main byte is the mask bit whose place is j, and B_BIT's place is 0. -/
theorem mainRemapsSevenBits : Obligations.MainRemapsSevenBits := fun cfg m =>
  ⟨mainByte_getLsbD cfg m 0, fun _ notB => mainByte_getLsbD_splitPos cfg m notB, mainByte_zero cfg,
    fun _ agree => mainByte_congr cfg agree⟩

end Sys2Proof.Proofs

/-! The encoder's steps 2 and 3 byte by byte: what the rotation (R102) writes in a run of consecutive slots and what it
leaves, and what the control words (R103) leave of a byte. -/

namespace Sys2Proof.Laws

open Sys2Proof.Machine

/-- The rotation writes no slot but those it runs over. -/
theorem foldl_rotateByte_notMem {slots : List Slot} {i : Slot} (out : i ∉ slots) (x : Buffer × Byte) :
    getByte (slots.foldl rotateByte x).1 i = getByte x.1 i := by
  induction slots generalizing x with
  | nil => rfl
  | cons k rest ih =>
    obtain ⟨notHead, notRest⟩ := not_or.mp (mt List.mem_cons.mpr out)
    rw [List.foldl_cons, ih notRest, rotateByte, getByte_putByte_other _ _ (Ne.symm notHead)]

/-- The invariant of R102's loop: slot `p` was the last one dealt with, the carry is the top 3 bits of its old byte, and
the slots still to come hold their old bytes. So each of them gets its carry from the old byte below it. -/
theorem foldl_rotateByte_mem {x b : Buffer} {p i j : Slot} {slots : List Slot}
    (run : (p :: slots).IsChain fun below above => below.val + 1 = above.val) (distinct : slots.Nodup)
    (old : ∀ k ∈ slots, getByte b k = getByte x k) (mem : i ∈ slots) (below : j.val + 1 = i.val) :
    getByte (slots.foldl rotateByte (b, getByte x p >>> 5)).1 i = (getByte x i <<< 3) ||| (getByte x j >>> 5) := by
  induction slots generalizing b p with
  | nil => cases mem
  | cons k rest ih =>
    obtain ⟨next, run⟩ := List.isChain_cons_cons.mp run
    obtain ⟨notRest, distinct⟩ := List.nodup_cons.mp distinct
    obtain ⟨oldHead, oldRest⟩ := List.forall_mem_cons.mp old
    rw [List.foldl_cons, rotateByte, oldHead]
    obtain rfl | inRest := List.mem_cons.mp mem
    · obtain rfl : j = p := Fin.ext (by omega)
      rw [foldl_rotateByte_notMem notRest, getByte_putByte_same]
    · refine ih run distinct (fun m hm => ?_) inRest
      rw [getByte_putByte_other _ _ (ne_of_mem_of_not_mem hm notRest).symm, oldRest m hm]

/-- The slots of the rotated span are those from 7 on. -/
theorem mem_rotatedSlots (i : Slot) : i ∈ ([7, 8, 9, 10, 11, 12, 13] : List Slot) ↔ 7 ≤ i.val := by
  revert i; decide

theorem getByte_rotateSpan_low (x : Buffer) {i : Slot} (low : i.val ≤ 6) :
    getByte (rotateSpan x) i = getByte x i :=
  foldl_rotateByte_notMem (mt (mem_rotatedSlots i).mp (by omega)) _

theorem getByte_rotateSpan_high (x : Buffer) {i j : Slot} (high : 7 ≤ i.val) (below : j.val + 1 = i.val) :
    getByte (rotateSpan x) i = (getByte x i <<< 3) ||| (getByte x j >>> 5) :=
  foldl_rotateByte_mem (by decide) (by decide) (fun _ _ => rfl) ((mem_rotatedSlots i).mpr high) below

/-- The three places of a control word are bits 5 to 7; the low 5 bits are the byte's own. -/
theorem stampWord_getLsbD (cw : BitVec 3) (b : Byte) (j : Fin 8) :
    (stampWord cw b).getLsbD j.val = if 5 ≤ j.val then cw.getLsbD (j.val - 5) else b.getLsbD j.val := by
  have kept : ((0x1F : Nat) : Byte).getLsbD j.val = decide (j.val < 5) := by revert j; decide
  have place : j.val - 5 < 8 := by omega
  rw [stampWord, BitVec.getLsbD_or, BitVec.getLsbD_and, kept, BitVec.getLsbD_shiftLeft, BitVec.getLsbD_setWidth]
  by_cases top : 5 ≤ j.val
  · simp [top, Nat.not_lt.mpr top, place]
  · simp [top, Nat.not_le.mp top]

/-- Bytes 6 and 13 are stamped, each with its own word; the two writes do not meet. -/
theorem getByte_stampControl (cfg : Config) (x : Buffer) (i : Slot) :
    getByte (stampControl cfg x) i =
      if i = 6 then stampWord cfg.cwA (getByte x i)
      else if i = 13 then stampWord cfg.cwB (getByte x i)
      else getByte x i := by
  rw [stampControl, getByte_putByte_other x _ (show (6 : Slot) ≠ 13 by decide)]
  by_cases six : i = 6
  · subst six
    rw [if_pos rfl, getByte_putByte_other _ _ (by decide), getByte_putByte_same]
  · by_cases last : i = 13
    · subst last
      rw [if_neg six, if_pos rfl, getByte_putByte_same]
    · rw [if_neg six, if_neg last, getByte_putByte_other _ _ (Ne.symm last), getByte_putByte_other _ _ (Ne.symm six)]

end Sys2Proof.Laws

/-! The statements of 41_encoder.md on the steps of Encode: the rotation and the control words. -/

namespace Sys2Proof.Proofs

open Sys2Proof.Machine Sys2Proof.Laws

/-- Settles O25, by the invariant of the rotation's loop. -/
theorem rotationCarriesUpward : Obligations.RotationCarriesUpward :=
  fun x _ => ⟨getByte_rotateSpan_low x, fun _ high below => getByte_rotateSpan_high x high below⟩

/-- Settles O26: byte 6, byte 13 and the others apart, then the bits of a stamped byte. -/
theorem controlWordsOverwriteTopBits : Obligations.ControlWordsOverwriteTopBits := by
  intro cfg x i j
  rw [getByte_stampControl]
  by_cases six : i = 6
  · subst six
    rw [if_pos rfl, stampWord_getLsbD]
    simp
  · by_cases last : i = 13
    · subst last
      rw [if_neg six, if_pos rfl, stampWord_getLsbD]
      simp
    · simp only [six, last, false_and, if_false]

end Sys2Proof.Proofs

/-! How many events the serial driver's procedures append, for every bit, byte and block. -/

namespace Sys2Proof.Laws

open Sys2Proof.Machine

@[simp] theorem bitEvents_length (v : Bool) : (bitEvents v).length = 6 := rfl

/-- Eight bits of six events. -/
@[simp] theorem byteEvents_length (b : Byte) : (byteEvents b).length = 48 := by
  simp [byteEvents, List.length_flatMap]

@[simp] theorem blockEvents_length (xfer : Buffer) (block : List Slot) :
    (blockEvents xfer block).length = 48 * block.length := by
  simp [blockEvents, List.length_flatMap, Nat.mul_comm]

end Sys2Proof.Laws

/-! The statements of 42_serial.md on the procedures of the serial driver and on REFRESH. -/

namespace Sys2Proof.Proofs

open Sys2Proof.Machine Sys2Proof.Laws

/-- Settles O5: the next state of REFRESH is the one of its equation. -/
theorem refreshEncodesAndTransmits : Obligations.RefreshEncodesAndTransmits :=
  exec_refresh

/-- Settles O31: each procedure by its equation; the statement's lists of events are the model's `bitEvents`, `byteEvents`
and `blockEvents` written out, and a block has seven bytes. -/
theorem serialProceduresAppendTheirEvents : Obligations.SerialProceduresAppendTheirEvents :=
  ⟨sendBit_eq,
   fun b s => ⟨sendByte_eq b s, byteEvents_length b⟩,
   fun s => ⟨sendBlock_blockOne s, sendBlock_blockTwo s,
     blockEvents_length s.xfer blockOne, blockEvents_length s.xfer blockTwo⟩⟩

end Sys2Proof.Proofs

/-! What of a trace stays visible (R125): at idle levels, a `Set` to low is dropped. -/

namespace Sys2Proof.Laws

open Sys2Proof.Machine

/-- An idle line is already low, so setting it low neither shows on the wire nor moves the levels from idle. -/
theorem visible_set_low_of_idle (line : Line) (w : List Event) :
    visible idleLevels (.set line false :: w) = visible idleLevels w := by
  cases line <;> rfl

end Sys2Proof.Laws

/-! The statement of 43_init.md: the whole next state of INIT, and its `Set` events seen from idle lines. -/

namespace Sys2Proof.Proofs

open Sys2Proof.Machine Sys2Proof.Laws

/-- Settles O1: the next state is the one of INIT's equation, and each of the three `Set` events is dropped at idle. -/
theorem initIdlesLinesAndClearsSeg : Obligations.InitIdlesLinesAndClearsSeg := fun s =>
  ⟨exec_init s, by rw [visible_set_low_of_idle, visible_set_low_of_idle, visible_set_low_of_idle, visible]⟩

end Sys2Proof.Proofs

/-! What the degenerate inputs of 60_exceptions.md rest on: the decimal point's bit is not the B-bit, a position's mask
is read back after SetChar (20_memory.md R54), and the loop of PRINT is over once position 9 is written (R87). -/

namespace Sys2Proof.Laws

open Sys2Proof.Machine

section

variable (cfg : Config)

/-- The constraint DP_BIT ≠ B_BIT of R8. -/
theorem dpBit_ne_bBit : dpBit cfg ≠ bBit cfg :=
  cfg.splitPlace.symm.injective.ne (Fin.succ_ne_zero cfg.dpPlace)

/-- A code without a glyph leaves the decimal-point request alone in its mask. -/
theorem cellMask_of_glyph_zero {c : Byte} (dp : Bool) (blank : glyph cfg c = 0x00) :
    cellMask cfg c dp = (if dp then 0x01 else 0x00 : Byte) <<< (dpBit cfg).val := by
  rw [cellMask, blank]
  exact BitVec.zero_or

/-- The decimal-point request never reaches the B-bit. -/
theorem cellMask_getLsbD_bBit (c : Byte) (dp : Bool) :
    (cellMask cfg c dp).getLsbD (bBit cfg).val = (glyph cfg c).getLsbD (bBit cfg).val := by
  cases dp with
  | false => rw [cellMask_false]
  | true => rw [cellMask_true_getLsbD, decide_eq_false (dpBit_ne_bBit cfg).symm, Bool.or_false]

theorem readMask_direct {p : Position} (seg : Buffer) (direct : (slotOf p).val ≤ 5) :
    readMask cfg seg p = getByte seg (slotOf p) := by
  simp only [readMask, isDirect, direct, decide_true, if_true]

/-- A split slot's mask bit by bit: the B-bit from the slot above, the others from their places in the main byte. -/
theorem readMask_split_getLsbD {p : Position} (seg : Buffer) (split : 6 ≤ (slotOf p).val) (k : Fin 8) :
    (readMask cfg seg p).getLsbD k.val =
      if k = bBit cfg then (getByte seg (slotAbove p)).getLsbD 0
      else (getByte seg (slotOf p)).getLsbD (splitPos cfg k).val := by
  have notDirect : ¬ (slotOf p).val ≤ 5 := by omega
  simp only [readMask, isDirect, notDirect, decide_false, Bool.false_eq_true, if_false]
  exact byteOfBits_getLsbD _ k

/-- Bit 0 of the slot above a split slot is the B-bit of the mask read there. -/
theorem slotAbove_getLsbD_zero {p : Position} (seg : Buffer) (split : 6 ≤ (slotOf p).val) :
    (getByte seg (slotAbove p)).getLsbD 0 = (readMask cfg seg p).getLsbD (bBit cfg).val := by
  rw [readMask_split_getLsbD cfg seg split, if_pos rfl]

/-- The byte SetChar leaves above a split slot has the B-bit in bit 0. -/
theorem aboveByte_getLsbD_zero (b m : Byte) :
    ((b &&& 0xFE) ||| bBitOf cfg m).getLsbD 0 = m.getLsbD (bBit cfg).val := by
  rw [BitVec.getLsbD_or, BitVec.getLsbD_and, bBitOf]
  cases m.getLsbD (bBit cfg).val <;> simp

/-- The inherited B-bit that SetChar keeps in a split slot (90_conflicts.md C2) is in no place of the mask written. -/
theorem keptBit_getLsbD (b : Byte) {j : Fin 8} (place : j ≠ 0) : (b &&& 0x01).getLsbD j.val = false := by
  have high : (0x01 : Byte).getLsbD j.val = false := by revert j; decide
  rw [BitVec.getLsbD_and, high, Bool.and_false]

/-- The mask SetChar writes is the mask the position's cell then holds (R55). -/
theorem readMask_setCharSeg_same (p : Position) (c : Byte) (dp : Bool) (b : Buffer) :
    readMask cfg (setCharSeg cfg p.val c dp b) p = cellMask cfg c dp := by
  by_cases direct : (slotOf p).val ≤ 5
  · rw [readMask_direct cfg _ direct, setCharSeg_direct cfg c dp b p.isLt rfl direct, getByte_putByte_same]
  · have split : 6 ≤ (slotOf p).val := Nat.not_le.mp direct
    have next : (slotAbove p).val = (slotOf p).val + 1 := by simp only [slotAbove, slotOf]; omega
    refine byte_ext fun k => ?_
    rw [readMask_split_getLsbD cfg _ split, setCharSeg_split cfg c dp b p.isLt rfl split next]
    by_cases isB : k = bBit cfg
    · rw [if_pos isB, getByte_putByte_other _ _ (slotAbove_ne_slotOf p).symm, getByte_putByte_same,
        aboveByte_getLsbD_zero, isB]
    · have place : splitPos cfg k ≠ 0 := mt (splitPos_eq_zero_iff cfg k).mp isB
      rw [if_neg isB, getByte_putByte_same, BitVec.getLsbD_or, keptBit_getLsbD _ place, Bool.or_false,
        mainByte_getLsbD_splitPos cfg _ isB]

end

/-- A round of the loop with a code left and a position free, its look-ahead said of the text that is left. -/
theorem printRounds_succ {text : List Byte} {i pos : Nat} (fuel : Nat) (left : i < text.length) (inRange : pos < 10) :
    printRounds text (fuel + 1) i pos =
      (pos, text[i], decide ((text.drop (i + 1)).head? = some dotCode)) ::
        printRounds text fuel (i + 1 + (decide ((text.drop (i + 1)).head? = some dotCode)).toNat) (pos + 1) := by
  rw [printRounds, if_pos ⟨left, inRange⟩]
  simp only [getD_eq_iff_head?_drop, List.getD_eq_getElem text 0x00 left]
  rfl

theorem printRounds_outOfRange (text : List Byte) (fuel i : Nat) {pos : Nat} (out : ¬ pos < 10) :
    printRounds text fuel i pos = [] := by
  cases fuel with
  | zero => rfl
  | succ fuel => rw [printRounds, if_neg fun more => out more.2]

/-- A loop that writes anything starts with a code left and a position free. -/
theorem inRange_of_mem_printRounds {text : List Byte} {fuel i pos : Nat} {cell : Nat × Byte × Bool}
    (mem : cell ∈ printRounds text fuel i pos) : i < text.length ∧ pos < 10 := by
  by_contra done
  cases fuel with
  | zero => cases mem
  | succ fuel => rw [printRounds, if_neg done] at mem; cases mem

/-- Further text changes what the look-ahead finds only where the text itself has ended, and then only by a '.'. -/
theorem head?_drop_append_eq_dot_iff {text tail : List Byte} {i : Nat} (inText : i ≤ text.length)
    (closed : (text.drop i).head? = none → tail.head? ≠ some dotCode) :
    ((text ++ tail).drop i).head? = some dotCode ↔ (text.drop i).head? = some dotCode := by
  rw [List.drop_append_of_le_length inText, List.head?_append]
  cases ended : (text.drop i).head? with
  | none => simpa using closed ended
  | some d => rfl

/-- A loop that writes position 9 makes the same calls whatever follows the text: before position 9 the next round
starts inside the text, so the look-ahead does too, and after it the loop is over. -/
theorem printRounds_append {text tail : List Byte} {c : Byte} {dp : Bool} {fuel fuel' i pos : Nat}
    (mem : (9, c, dp) ∈ printRounds text fuel i pos) (closed : dp = true ∨ tail.head? ≠ some dotCode)
    (enough : fuel ≤ fuel') :
    printRounds (text ++ tail) fuel' i pos = printRounds text fuel i pos := by
  induction fuel generalizing fuel' i pos with
  | zero => cases mem
  | succ fuel ih =>
    obtain ⟨fuel', rfl⟩ := Nat.exists_eq_add_of_lt enough
    obtain ⟨left, inRange⟩ := inRange_of_mem_printRounds mem
    have leftBoth : i < (text ++ tail).length := by rw [List.length_append]; omega
    rw [printRounds_succ fuel left inRange] at mem ⊢
    rw [printRounds_succ _ leftBoth inRange, List.getElem_append_left left]
    obtain here | later := List.mem_cons.mp mem
    · simp only [Prod.mk.injEq] at here
      obtain ⟨rfl, -, rfl⟩ := here
      have look := head?_drop_append_eq_dot_iff (text := text) (tail := tail) left fun ended => by
        simpa [ended] using closed
      simp only [look, printRounds_outOfRange _ _ _ (show ¬ 9 + 1 < 10 by decide)]
    · obtain ⟨nextLeft, -⟩ := inRange_of_mem_printRounds later
      have look := head?_drop_append_eq_dot_iff (text := text) (tail := tail) left fun ended => by
        have := List.drop_eq_nil_iff.mp (List.head?_eq_none_iff.mp ended)
        omega
      simp only [look]
      rw [ih later (by omega)]

end Sys2Proof.Laws

/-! The statements of 60_exceptions.md: no command fails, and what degenerate input does instead. -/

namespace Sys2Proof.Proofs

open Sys2Proof.Machine Sys2Proof.Laws

/-- Settles O24: the longer text gives the same SetChar calls, so the same SEG, and its own length to cp. -/
theorem longTextIsTruncated : Obligations.LongTextIsTruncated := by
  rintro start text tail s ⟨c, dp, written, closed⟩
  have cells : printCells start (text ++ tail) = printCells start text :=
    printRounds_append written closed (by rw [List.length_append]; exact Nat.le_add_right _ _)
  refine ⟨_, exec_print start text s, ?_⟩
  rw [exec_print, printSeg_eq_writeCells, printSeg_eq_writeCells, cells, List.length_append]
  simp only [Nat.add_assoc]

/-- Settles O18: the mask written is the decimal-point request alone, it is read back, and the slot above holds its
B-bit. -/
theorem unknownCharacterBlanksTheCell : Obligations.UnknownCharacterBlanksTheCell := by
  intro p pos c dp s at_p notDigit notUpper notLower unnamed notDegree
  have blank : glyph Config.chip c = 0x00 :=
    glyph_unmapped _ (hexIndex_none notDigit notUpper notLower) (namedMask_none _ unnamed) notDegree
  have readBack := readMask_setCharSeg_same Config.chip p c dp s.seg
  rw [← at_p] at readBack
  refine ⟨_, exec_setchar pos c dp s, readBack.trans (cellMask_of_glyph_zero _ dp blank), fun above low next => ?_⟩
  obtain rfl : above = slotAbove p := Fin.ext next
  have split : 6 ≤ (slotOf p).val := by simp only [slotOf]; omega
  rw [slotAbove_getLsbD_zero Config.chip _ split, readBack, cellMask_getLsbD_bBit, blank]
  exact BitVec.getLsbD_zero

/-- Settles O6: O7 names every command's next state; `Fault` has no constructor, so no outcome can be one. -/
theorem noCommandFails : Obligations.NoCommandFails := by
  refine ⟨fun i s => ?_, fun _ fault => nomatch fault⟩
  obtain ⟨t, next, -⟩ := cpAdvancesByLength.2 i s
  exact ⟨t, next⟩

/-- Settles O9: SetChar out of range keeps the buffer, and the loop of PRINT out of range keeps the blank one. -/
theorem outOfRangePositionsAreIgnored : Obligations.OutOfRangePositionsAreIgnored := by
  intro pos c dp text s out
  constructor
  · rw [exec_setchar, setCharSeg_outOfRange _ c dp s.seg out]
  · rw [exec_print, printSeg_outOfRange _ text _ (Nat.not_lt.mpr out), Nat.add_assoc]
    rfl

end Sys2Proof.Proofs

/-! Where a position's mask stands in SEG, bit by bit (20_memory.md R42, R43). For each bit number the ten positions
have ten different slots, so every fact about which SetChar disturbs which cell is a fact about single bits. -/

namespace Sys2Proof.Laws

open Sys2Proof.Machine

/-- The slot that holds the bit of position `p`'s mask that stands in bit `j` of a byte: the position's own slot, but
the slot above it for bit 0 of a split one. -/
def cellSlot (p : Position) (j : Fin 8) : Slot :=
  if (slotOf p).val ≤ 5 ∨ j ≠ 0 then slotOf p else slotAbove p

/-- The bit of a byte in which mask bit `k` of position `p` stands. On a split slot that is `splitPlace`, which sends
B_BIT to 0. -/
def cellPlace (cfg : Config) (p : Position) : Equiv.Perm (Fin 8) :=
  if (slotOf p).val ≤ 5 then Equiv.refl _ else cfg.splitPlace

/-- No bit of SEG belongs to two positions. -/
theorem cellSlot_injective (j : Fin 8) : Function.Injective fun p => cellSlot p j := by
  intro p q (same : cellSlot p j = cellSlot q j)
  unfold cellSlot at same
  refine Fin.ext ?_
  split at same <;> split at same <;> simp only [slotOf, slotAbove, Fin.mk.injEq] at * <;> omega

theorem cellSlot_direct {p : Position} (direct : (slotOf p).val ≤ 5) (j : Fin 8) : cellSlot p j = slotOf p :=
  if_pos (.inl direct)

theorem cellSlot_main (p : Position) {j : Fin 8} (main : j ≠ 0) : cellSlot p j = slotOf p :=
  if_pos (.inr main)

theorem cellSlot_split_zero {p : Position} (split : 6 ≤ (slotOf p).val) : cellSlot p 0 = slotAbove p :=
  if_neg (by rintro (direct | main) <;> [omega; exact main rfl])

section

variable (cfg : Config)

theorem cellPlace_direct {p : Position} (direct : (slotOf p).val ≤ 5) : cellPlace cfg p = Equiv.refl _ :=
  if_pos direct

theorem cellPlace_split {p : Position} (split : 6 ≤ (slotOf p).val) : cellPlace cfg p = cfg.splitPlace :=
  if_neg (Nat.not_le.mpr split)

/-- ReadMask collects the bits of a cell from their places. -/
theorem readMask_getLsbD (seg : Buffer) (p : Position) (k : Fin 8) :
    (readMask cfg seg p).getLsbD k.val =
      (getByte seg (cellSlot p (cellPlace cfg p k))).getLsbD (cellPlace cfg p k).val := by
  by_cases direct : (slotOf p).val ≤ 5
  · rw [readMask_direct cfg seg direct, cellSlot_direct direct, cellPlace_direct cfg direct, Equiv.refl_apply]
  · have split : 6 ≤ (slotOf p).val := Nat.not_le.mp direct
    rw [readMask_split_getLsbD cfg seg split, cellPlace_split cfg split]
    by_cases isB : k = bBit cfg
    · have zero : cfg.splitPlace k = 0 := (splitPos_eq_zero_iff cfg k).mpr isB
      rw [if_pos isB, zero, cellSlot_split_zero split]
      rfl
    · have main : cfg.splitPlace k ≠ 0 := mt (splitPos_eq_zero_iff cfg k).mp isB
      rw [if_neg isB, cellSlot_main p main, splitPos]

/-- A byte with its bit 0 masked out, or only that kept. -/
theorem and_FE_getLsbD (b : Byte) (j : Fin 8) : (b &&& 0xFE).getLsbD j.val = (b.getLsbD j.val && decide (j ≠ 0)) := by
  have mask : (0xFE : Byte).getLsbD j.val = decide (j ≠ 0) := by revert j; decide
  rw [BitVec.getLsbD_and, mask]

theorem and_01_getLsbD (b : Byte) (j : Fin 8) : (b &&& 0x01).getLsbD j.val = (b.getLsbD j.val && decide (j = 0)) := by
  have mask : (0x01 : Byte).getLsbD j.val = decide (j = 0) := by revert j; decide
  rw [BitVec.getLsbD_and, mask]

/-- `m[B_BIT]` as a byte is that bit in bit 0. -/
theorem bBitOf_getLsbD (m : Byte) (j : Fin 8) :
    (bBitOf cfg m).getLsbD j.val = (decide (j = 0) && m.getLsbD (bBit cfg).val) := by
  have one : (0x01 : Byte).getLsbD j.val = decide (j = 0) := by revert j; decide
  unfold bBitOf
  split <;> simp_all

/-- SetChar puts the mask's bits in their places and changes no other bit of SEG. -/
theorem setCharSeg_getLsbD (p : Position) (c : Byte) (dp : Bool) (b : Buffer) (i : Slot) (j : Fin 8) :
    (getByte (setCharSeg cfg p.val c dp b) i).getLsbD j.val =
      if i = cellSlot p j then (cellMask cfg c dp).getLsbD ((cellPlace cfg p).symm j).val
      else (getByte b i).getLsbD j.val := by
  by_cases direct : (slotOf p).val ≤ 5
  · rw [setCharSeg_direct cfg c dp b p.isLt rfl direct, getByte_putByte, cellSlot_direct direct,
      cellPlace_direct cfg direct]
    by_cases here : i = slotOf p
    · rw [if_pos here, if_pos here.symm]; rfl
    · rw [if_neg here, if_neg (Ne.symm here)]
  · have split : 6 ≤ (slotOf p).val := Nat.not_le.mp direct
    have next : (slotAbove p).val = (slotOf p).val + 1 := by simp only [slotAbove, slotOf]; omega
    have apart := slotAbove_ne_slotOf p
    rw [setCharSeg_split cfg c dp b p.isLt rfl split next, cellPlace_split cfg split, getByte_putByte, getByte_putByte]
    by_cases main : j = 0
    · subst main
      rw [cellSlot_split_zero split]
      by_cases above : i = slotAbove p
      · rw [above, if_neg apart.symm, if_pos rfl, if_pos rfl]
        exact aboveByte_getLsbD_zero cfg _ _
      · rw [if_neg above, if_neg (Ne.symm above)]
        by_cases own : slotOf p = i
        · rw [if_pos own, own, BitVec.getLsbD_or, mainByte_getLsbD, and_01_getLsbD]; simp
        · rw [if_neg own]
    · rw [cellSlot_main p main]
      by_cases own : i = slotOf p
      · rw [if_pos own.symm, if_pos own, BitVec.getLsbD_or, mainByte_getLsbD, keptBit_getLsbD _ main]
        simp [main]
      · rw [if_neg own, if_neg (Ne.symm own)]
        by_cases above : slotAbove p = i
        · rw [if_pos above, above, BitVec.getLsbD_or, and_FE_getLsbD, bBitOf_getLsbD]
          simp [main]
        · rw [if_neg above]

/-- SetChar leaves the cell of every other position as it was. -/
theorem readMask_setCharSeg_other {p q : Position} (c : Byte) (dp : Bool) (b : Buffer) (other : q ≠ p) :
    readMask cfg (setCharSeg cfg p.val c dp b) q = readMask cfg b q := by
  refine byte_ext fun k => ?_
  rw [readMask_getLsbD, readMask_getLsbD, setCharSeg_getLsbD,
    if_neg ((cellSlot_injective (cellPlace cfg q k)).ne other)]

end

/-- Two buffers with the same bits are the same buffer. -/
theorem buffer_ext_getLsbD {a b : Buffer}
    (h : ∀ (i : Slot) (j : Fin 8), (getByte a i).getLsbD j.val = (getByte b i).getLsbD j.val) : a = b :=
  buffer_ext fun i => byte_ext fun j => h i j

section

variable (cfg : Config)

/-- SetChar done twice is SetChar done once. -/
theorem setCharSeg_idem (pos : Nat) (c : Byte) (dp : Bool) (b : Buffer) :
    setCharSeg cfg pos c dp (setCharSeg cfg pos c dp b) = setCharSeg cfg pos c dp b := by
  by_cases inRange : pos < 10
  · refine buffer_ext_getLsbD fun i j => ?_
    rw [setCharSeg_getLsbD cfg ⟨pos, inRange⟩]
    split
    · rw [setCharSeg_getLsbD cfg ⟨pos, inRange⟩, if_pos ‹_›]
    · rfl
  · rw [setCharSeg_outOfRange cfg c dp _ (Nat.not_lt.mp inRange)]

/-- Two SetChars at different positions write different bits, so their order does not matter. -/
theorem setCharSeg_comm {pos pos' : Nat} (c c' : Byte) (dp dp' : Bool) (b : Buffer) (other : pos ≠ pos') :
    setCharSeg cfg pos c dp (setCharSeg cfg pos' c' dp' b) =
      setCharSeg cfg pos' c' dp' (setCharSeg cfg pos c dp b) := by
  by_cases inRange : pos < 10
  · by_cases inRange' : pos' < 10
    · refine buffer_ext_getLsbD fun i j => ?_
      have apart : cellSlot ⟨pos, inRange⟩ j ≠ cellSlot ⟨pos', inRange'⟩ j :=
        (cellSlot_injective j).ne (Fin.ne_of_val_ne other)
      rw [setCharSeg_getLsbD cfg ⟨pos, inRange⟩, setCharSeg_getLsbD cfg ⟨pos', inRange'⟩,
        setCharSeg_getLsbD cfg ⟨pos', inRange'⟩, setCharSeg_getLsbD cfg ⟨pos, inRange⟩]
      by_cases here : i = cellSlot ⟨pos, inRange⟩ j
      · rw [if_pos here, if_pos here, if_neg (here ▸ apart)]
      · rw [if_neg here, if_neg here]
    · rw [setCharSeg_outOfRange cfg c' dp' _ (Nat.not_lt.mp inRange'),
        setCharSeg_outOfRange cfg c' dp' _ (Nat.not_lt.mp inRange')]
  · rw [setCharSeg_outOfRange cfg c dp _ (Nat.not_lt.mp inRange),
      setCharSeg_outOfRange cfg c dp _ (Nat.not_lt.mp inRange)]

/-! The ten cells. -/

theorem screenOf_blankBuffer : screenOf cfg blankBuffer = blankScreen := by
  funext p
  refine byte_ext fun k => ?_
  rw [screenOf, readMask_getLsbD, getByte_blankBuffer]
  exact BitVec.getLsbD_zero.trans BitVec.getLsbD_zero.symm

/-- SetChar on the buffer is a write to one cell of the screen, or to none. -/
theorem screenOf_setCharSeg (cell : Nat × Byte × Bool) (b : Buffer) :
    screenOf cfg (setCharSeg cfg cell.1 cell.2.1 cell.2.2 b) = screenWrite cfg (screenOf cfg b) cell := by
  obtain ⟨pos, c, dp⟩ := cell
  funext q
  rw [screenWrite]
  split
  case isTrue here =>
    obtain rfl : q.val = pos := here
    exact readMask_setCharSeg_same cfg q c dp b
  case isFalse elsewhere =>
    by_cases inRange : pos < 10
    · exact readMask_setCharSeg_other cfg (p := ⟨pos, inRange⟩) c dp b (Fin.ne_of_val_ne elsewhere)
    · rw [setCharSeg_outOfRange cfg c dp b (Nat.not_lt.mp inRange)]

/-- The loop of PRINT writes its cells in order. -/
theorem screenOf_writeCells (cells : List (Nat × Byte × Bool)) (b : Buffer) :
    screenOf cfg (writeCells cfg cells b) = cells.foldl (screenWrite cfg) (screenOf cfg b) :=
  (List.foldl_hom (screenOf cfg) fun b cell => (screenOf_setCharSeg cfg cell b).symm).symm

end

end Sys2Proof.Laws

/-! What a command does, said once for all five: a function for each part of the state, and the next state made of
them. -/

namespace Sys2Proof.Laws

open Sys2Proof.Machine

/-- SEG after a command, from SEG before it. -/
def commandSeg : Instr → Buffer → Buffer
  | .init, _ => blankBuffer
  | .clear, _ => blankBuffer
  | .setchar pos c dp, b => setCharSeg Config.chip pos.toNat c dp b
  | .print start text, _ => writeCells Config.chip (printCells start text) blankBuffer
  | .refresh, b => b

/-- XFER after a command, from SEG and XFER before it. -/
def commandXfer : Instr → Buffer → Buffer → Buffer
  | .refresh, b, _ => encodeSeg Config.chip b
  | _, _, x => x

/-- The line levels after a command. -/
def commandLines : Instr → Lines → Lines
  | .init, _ => idleLevels
  | .refresh, _ => idleLevels
  | _, l => l

/-- The events a command appends to WIRE, from SEG before it. -/
def commandEvents : Instr → Buffer → List Event
  | .init, _ => [.set .data false, .set .clk false, .set .ce false]
  | .refresh, b => refreshEvents (encodeSeg Config.chip b)
  | _, _ => []

/-- The state after a command. -/
def afterCommand (i : Instr) (s : State) : State where
  seg := commandSeg i s.seg
  xfer := commandXfer i s.seg s.xfer
  data := (commandLines i (linesOf s)).data
  clk := (commandLines i (linesOf s)).clk
  ce := (commandLines i (linesOf s)).ce
  wire := s.wire ++ commandEvents i s.seg
  cp := s.cp + commandLength i
  stream := s.stream

section

variable (i : Instr) (s : State)

@[simp] theorem afterCommand_seg : (afterCommand i s).seg = commandSeg i s.seg := rfl
@[simp] theorem afterCommand_xfer : (afterCommand i s).xfer = commandXfer i s.seg s.xfer := rfl
@[simp] theorem afterCommand_lines : linesOf (afterCommand i s) = commandLines i (linesOf s) := rfl
@[simp] theorem afterCommand_wire : (afterCommand i s).wire = s.wire ++ commandEvents i s.seg := rfl
@[simp] theorem afterCommand_cp : (afterCommand i s).cp = s.cp + commandLength i := rfl
@[simp] theorem afterCommand_stream : (afterCommand i s).stream = s.stream := rfl

end

section

variable {i : Instr} (notRefresh : i ≠ .refresh)
include notRefresh

/-- Only REFRESH writes XFER. -/
theorem commandXfer_of_ne (b x : Buffer) : commandXfer i b x = x := by
  cases i <;> simp_all [commandXfer]

variable (notInit : i ≠ .init)
include notInit

/-- Only INIT and REFRESH touch the lines or append events. -/
theorem commandLines_of_ne (l : Lines) : commandLines i l = l := by
  cases i <;> simp_all [commandLines]

theorem commandEvents_of_ne (b : Buffer) : commandEvents i b = [] := by
  cases i <;> simp_all [commandEvents]

/-- CLEAR, SETCHAR and PRINT change SEG and cp and nothing else. -/
theorem afterCommand_eq_of_ne (s : State) :
    afterCommand i s = { s with seg := commandSeg i s.seg, cp := s.cp + commandLength i } := by
  simp only [afterCommand, commandXfer_of_ne notRefresh, commandLines_of_ne notRefresh notInit,
    commandEvents_of_ne notRefresh notInit, List.append_nil, linesOf]

end

/-- Every command answers a next state from every state, and this one. -/
theorem exec_eq (i : Instr) (s : State) : exec i s = .next (afterCommand i s) := by
  cases i with
  | init => exact exec_init s
  | clear =>
    rw [afterCommand_eq_of_ne (by simp) (by simp)]
    exact exec_clear s
  | setchar pos c dp =>
    rw [afterCommand_eq_of_ne (by simp) (by simp)]
    exact exec_setchar pos c dp s
  | print start text =>
    rw [afterCommand_eq_of_ne (by simp) (by simp), commandSeg, ← printSeg_eq_writeCells]
    exact exec_print start text s
  | refresh => exact exec_refresh s

/-- The state after commands executed one after the other. -/
def afterCommands (is : List Instr) (s : State) : State := is.foldl (fun u i => afterCommand i u) s

@[simp] theorem afterCommands_nil (s : State) : afterCommands [] s = s := rfl

@[simp] theorem afterCommands_cons (i : Instr) (is : List Instr) (s : State) :
    afterCommands (i :: is) s = afterCommands is (afterCommand i s) := rfl

@[simp] theorem afterCommands_append (is js : List Instr) (s : State) :
    afterCommands (is ++ js) s = afterCommands js (afterCommands is s) := List.foldl_append

/-- A run of commands always answers a next state. -/
theorem runCommands_eq (is : List Instr) (s : State) : runCommands is s = .next (afterCommands is s) := by
  induction is generalizing s with
  | nil => rfl
  | cons i is ih => rw [runCommands_cons (exec_eq i s), ih, afterCommands_cons]

end Sys2Proof.Laws

/-! The refinement of SEG to ten independent cells. -/

namespace Sys2Proof.Proofs

open Sys2Proof.Machine Sys2Proof.Laws

/-- Settles O20: SetChar is a write to one cell, because no bit of SEG belongs to two positions; PRINT by induction over
its SetChar calls. -/
theorem segRefinesTenCells : Obligations.SegRefinesTenCells := by
  intro i s
  refine ⟨_, exec_eq i s, ?_⟩
  rw [afterCommand_seg]
  cases i with
  | init => exact screenOf_blankBuffer Config.chip
  | clear => exact screenOf_blankBuffer Config.chip
  | setchar pos c dp => exact screenOf_setCharSeg Config.chip (pos.toNat, c, dp) s.seg
  | print start text =>
    rw [commandSeg, screenOf_writeCells, screenOf_blankBuffer]
    rfl
  | refresh => rfl

end Sys2Proof.Proofs

/-! Decoding and encoding undo each other (30_encoding.md R61, R68, R69), and one step of the block is one command of
the stream. -/

namespace Sys2Proof.Laws

open Sys2Proof.Machine

/-- The byte of format S that carries `dp` has its reserved bits clear, and `dp` in bit 0. -/
theorem flagByte_and_FE (dp : Bool) : (if dp then 0x01 else 0x00 : Byte) &&& 0xFE = 0x00 := by
  cases dp <;> rfl

theorem flagByte_getLsbD_zero (dp : Bool) : (if dp then 0x01 else 0x00 : Byte).getLsbD 0 = dp := by
  cases dp <;> rfl

/-- A byte without reserved bits is the flag byte of its bit 0. -/
theorem eq_flagByte {flags : Byte} (clear : flags &&& 0xFE = 0x00) :
    flags = if flags.getLsbD 0 then 0x01 else 0x00 := by
  have off : ∀ j : Fin 8, j ≠ 0 → ∀ dp : Bool, (if dp then 0x01 else 0x00 : Byte).getLsbD j.val = false := by decide
  refine byte_ext fun j => ?_
  have high := and_FE_getLsbD flags j
  rw [clear, show (0x00 : Byte).getLsbD j.val = false from BitVec.getLsbD_zero] at high
  by_cases low : j = 0
  · rw [low]; exact (flagByte_getLsbD_zero _).symm
  · rw [off j low]
    simpa [low] using high.symm

/-- A SETCHAR with its flag byte as the encoder writes it. -/
theorem decodeSetchar_flagByte (pos c : Byte) (dp : Bool) (rest : List Byte) :
    decodeSetchar (pos :: c :: (if dp then 0x01 else 0x00) :: rest) = .ok (.setchar pos c dp, 4) := by
  rw [decodeSetchar_ok pos c rest (flagByte_and_FE dp), flagByte_getLsbD_zero]

/-- A PRINT whose text is as long as its count says, whatever follows. -/
theorem decodePrint_append (start : Byte) {n : Byte} {text : List Byte} (rest : List Byte)
    (count : text.length = n.toNat) :
    decodePrint (start :: n :: (text ++ rest)) = .ok (.print start text, 3 + text.length) := by
  rw [decodePrint_ok start (by rw [← count, List.length_append]; exact Nat.le_add_right _ _), ← count, List.take_left]

theorem encode_length (i : Instr) : (encode i).length = commandLength i := by
  cases i with
  | init => exact EncodeLength.init.1
  | clear => exact EncodeLength.clear.1
  | setchar pos c dp => exact (EncodeLength.setchar pos c dp).1
  | print start text => exact (EncodeLength.print start text).1
  | refresh => exact EncodeLength.refresh.1

theorem commandLength_pos (i : Instr) : 0 < commandLength i := by
  cases i with
  | init => exact EncodeLength.init.2
  | clear => exact EncodeLength.clear.2
  | setchar pos c dp => exact (EncodeLength.setchar pos c dp).2
  | print start text => exact (EncodeLength.print start text).2
  | refresh => exact EncodeLength.refresh.2

/-- R68: the longest command is a PRINT of 255 characters. -/
theorem commandLength_le_longestCommand {i : Instr} (wf : WellFormed i) : commandLength i ≤ longestCommand := by
  cases i with
  | print start text =>
    have fits : text.length ≤ 255 := of_decide_eq_true wf
    simp only [commandLength, longestCommand]
    omega
  | setchar pos c dp => exact (by decide : 4 ≤ longestCommand)
  | _ => decide

/-- The decoder reads back what the encoder wrote. -/
theorem decode_encode_append {i : Instr} (rest : List Byte) (wf : WellFormed i) :
    decode (encode i ++ rest) = .ok (i, commandLength i) := by
  cases i with
  | init => rfl
  | clear => rfl
  | setchar pos c dp => exact decodeSetchar_flagByte pos c dp rest
  | print start text =>
    have fits : text.length ≤ 255 := of_decide_eq_true wf
    exact decodePrint_append start rest (by rw [BitVec.toNat_ofNat]; omega)
  | refresh => rfl

/-- What decodes as format S is the encoding of that SETCHAR and more. -/
theorem eq_encode_of_decodeSetchar {bs : List Byte} {i : Instr} {n : Nat} (ok : decodeSetchar bs = .ok (i, n)) :
    WellFormed i ∧ n = commandLength i ∧ ∃ rest, 0x03 :: bs = encode i ++ rest := by
  match bs with
  | [] | [_] | [_, _] => cases ok
  | pos :: c :: flags :: rest =>
    by_cases clear : flags &&& 0xFE = 0x00
    · rw [decodeSetchar_ok pos c rest clear] at ok
      cases ok
      exact ⟨rfl, rfl, rest, congrArg (fun flags => 0x03 :: pos :: c :: flags :: rest) (eq_flagByte clear)⟩
    · rw [decodeSetchar_reservedBits pos c rest clear] at ok
      cases ok

/-- What decodes as format P is the encoding of that PRINT and more. -/
theorem eq_encode_of_decodePrint {bs : List Byte} {i : Instr} {n : Nat} (ok : decodePrint bs = .ok (i, n)) :
    WellFormed i ∧ n = commandLength i ∧ ∃ rest, 0x04 :: bs = encode i ++ rest := by
  match bs with
  | [] | [_] => cases ok
  | start :: count :: text =>
    by_cases fits : count.toNat ≤ text.length
    · rw [decodePrint_ok start fits] at ok
      cases ok
      have length : (text.take count.toNat).length = count.toNat := List.length_take_of_le fits
      refine ⟨decide_eq_true (by omega), by rw [commandLength, length], text.drop count.toNat, ?_⟩
      simp only [encode, length, BitVec.ofNat_toNat, BitVec.setWidth_eq, List.cons_append, List.take_append_drop]
    · rw [decodePrint_cutShort_text start (Nat.not_le.mp fits)] at ok
      cases ok

/-- What decodes to a command is the encoding of that command, which is well formed, and more. -/
theorem eq_encode_of_decode {bs : List Byte} {i : Instr} {n : Nat} (ok : decode bs = .ok (i, n)) :
    WellFormed i ∧ n = commandLength i ∧ ∃ rest, bs = encode i ++ rest := by
  cases bs with
  | nil => cases ok
  | cons op rest =>
    obtain rfl | rfl | rfl | rfl | rfl | reserved := opcode_cases op
    · cases ok; exact ⟨rfl, rfl, rest, rfl⟩
    · cases ok; exact ⟨rfl, rfl, rest, rfl⟩
    · exact eq_encode_of_decodeSetchar ok
    · exact eq_encode_of_decodePrint ok
    · cases ok; exact ⟨rfl, rfl, rest, rfl⟩
    · rw [decode_reservedOpcode rest reserved] at ok
      cases ok

/-! One step. -/

theorem step_of_decode_ok {s : State} {i : Instr} {n : Nat} (ok : decode (fetch s) = .ok (i, n)) :
    step s = .next (afterCommand i s) := by
  simp only [step, ok, exec_eq]

theorem step_of_decode_error {s : State} {e : DecodeError} (error : decode (fetch s) = .error e) :
    step s = .refused (refusalOf e) := by
  simp only [step, error]

/-- A step to a next state executes one well-formed command, whose encoding stands in the stream at cp. -/
theorem step_next {s t : State} (next : step s = .next t) :
    ∃ i rest, WellFormed i ∧ fetch s = encode i ++ rest ∧ t = afterCommand i s := by
  cases verdict : decode (fetch s) with
  | ok result =>
    obtain ⟨i, n⟩ := result
    obtain ⟨wf, -, rest, bytes⟩ := eq_encode_of_decode verdict
    rw [step_of_decode_ok verdict] at next
    cases next
    exact ⟨i, rest, wf, bytes, rfl⟩
  | error e =>
    rw [step_of_decode_error verdict] at next
    cases next

/-- The step at an encoded command executes it. -/
theorem step_of_fetch_eq_encode {s : State} {i : Instr} {rest : List Byte} (wf : WellFormed i)
    (bytes : fetch s = encode i ++ rest) : step s = .next (afterCommand i s) :=
  step_of_decode_ok (bytes ▸ decode_encode_append rest wf)

/-- A command whose bytes stand at cp leaves cp at the bytes after them. -/
theorem fetch_afterCommand {s : State} {i : Instr} {rest : List Byte} (bytes : fetch s = encode i ++ rest) :
    fetch (afterCommand i s) = rest := by
  have drop : fetch (afterCommand i s) = (fetch s).drop (commandLength i) := by
    simp only [fetch, afterCommand_stream, afterCommand_cp, List.drop_drop]
  rw [drop, bytes, List.drop_left' (encode_length i)]

/-- A command whose bytes stand at cp ends inside the stream. -/
theorem cp_add_commandLength_le {s : State} {i : Instr} {rest : List Byte} (bytes : fetch s = encode i ++ rest) :
    s.cp + commandLength i ≤ s.stream.length := by
  have length := congrArg List.length bytes
  rw [fetch, List.length_drop, List.length_append, encode_length] at length
  have := commandLength_pos i
  omega

/-- A run of the stream's commands, whatever follows them. -/
theorem core_run_of_fetch_eq_encode {is : List Instr} {rest : List Byte} {s : State} (wf : ∀ i ∈ is, WellFormed i)
    (bytes : fetch s = is.flatMap encode ++ rest) :
    core.run is.length s = .next (afterCommands is s) ∧
      (afterCommands is s).cp = s.cp + (is.flatMap encode).length ∧
      fetch (afterCommands is s) = rest := by
  induction is generalizing s with
  | nil => exact ⟨rfl, rfl, bytes⟩
  | cons i is ih =>
    obtain ⟨wfHead, wfTail⟩ := List.forall_mem_cons.mp wf
    rw [List.flatMap_cons, List.append_assoc] at bytes
    obtain ⟨run, cp, left⟩ := ih wfTail (fetch_afterCommand bytes)
    refine ⟨?_, ?_, left⟩
    · rw [List.length_cons, core_run_succ _ (step_of_fetch_eq_encode wfHead bytes), run, afterCommands_cons]
    · rw [afterCommands_cons, cp, afterCommand_cp, List.flatMap_cons, List.length_append, encode_length, Nat.add_assoc]

end Sys2Proof.Laws

/-! The statements of 30_encoding.md and 70_reset_and_hazards.md on the encoding and on runs of a stream. -/

namespace Sys2Proof.Proofs

open Sys2Proof.Machine Sys2Proof.Laws

/-- Settles O43, by cases on the command; a PRINT's count byte holds its length because the command is well formed. -/
theorem decodeOfEncode : Obligations.DecodeOfEncode := by
  intro i rest wf
  rw [encode_length]
  exact decode_encode_append rest wf

/-- Settles O53, by induction over the commands: each step executes the first of them and leaves cp at the others. -/
theorem runFollowsTheStream : Obligations.RunFollowsTheStream := by
  intro is rest s wf bytes
  obtain ⟨run, cp, left⟩ := core_run_of_fetch_eq_encode wf bytes
  refine ⟨_, run, runCommands_eq is s, cp, left, fun ended => ?_⟩
  exact step_of_decode_error (e := .endOfStream) (by rw [left, ended]; rfl)

end Sys2Proof.Proofs

/-! The trace of a REFRESH as bits: what its events leave on the lines, what an observer samples from them, and sums
over them. A block of XFER is sent as the list of its bits, so each fact is an induction over bits. -/

namespace Sys2Proof.Laws

open Sys2Proof.Machine

/-- The bits of a block in the order they leave (R117, R118). -/
def blockBits (xfer : Buffer) (block : List Slot) : List Bool :=
  block.flatMap fun i => (List.range 8).map (getByte xfer i).getLsbD

theorem blockEvents_eq (xfer : Buffer) (block : List Slot) :
    blockEvents xfer block = (blockBits xfer block).flatMap bitEvents := by
  simp only [blockEvents, byteEvents, blockBits, List.flatMap_assoc, List.flatMap_map]

theorem blockBits_length (xfer : Buffer) (block : List Slot) : (blockBits xfer block).length = 8 * block.length := by
  simp [blockBits, List.length_flatMap, Nat.mul_comm]

/-- The events of the low pulse of chip-enable between the blocks (R119, R120). -/
def gapEvents : List Event :=
  [.set .data false, .wait .step, .set .ce false, .wait .gap, .set .ce true, .wait .step]

/-- The trace of R119: chip-enable up, block one, the gap, block two, and the lines to idle. -/
theorem refreshEvents_eq (xfer : Buffer) :
    refreshEvents xfer = [Event.set .ce true] ++ (blockEvents xfer blockOne ++ (gapEvents ++
      (blockEvents xfer blockTwo ++ [Event.set .data false, .set .ce false]))) := by
  simp only [refreshEvents, gapEvents, blockOne, blockTwo, List.append_assoc]

/-! Line levels. -/

theorem replay_append (l : Lines) (a b : List Event) : replay l (a ++ b) = replay (replay l a) b :=
  List.foldl_append

/-- Bits sent with CLK low leave it low, and the last of them on DATA. -/
theorem replay_bits (bits : List Bool) (d ce : Bool) :
    replay ⟨d, false, ce⟩ (bits.flatMap bitEvents) = ⟨bits.getLastD d, false, ce⟩ := by
  induction bits generalizing d with
  | nil => rfl
  | cons v bits ih => rw [List.flatMap_cons, replay_append, List.getLastD_cons, ← ih]; rfl

/-- A REFRESH that starts from idle lines ends with them (R119). -/
theorem replay_refreshEvents (xfer : Buffer) : replay idleLevels (refreshEvents xfer) = idleLevels := by
  rw [refreshEvents_eq, replay_append, replay_append, replay_append, replay_append, blockEvents_eq, blockEvents_eq,
    show replay idleLevels [.set .ce true] = ⟨false, false, true⟩ from rfl, replay_bits,
    show ∀ d, replay ⟨d, false, true⟩ gapEvents = ⟨false, false, true⟩ from fun _ => rfl, replay_bits]
  rfl

/-- Every command's events account for its levels, from idle lines (R28). -/
theorem replay_commandEvents (i : Instr) (b : Buffer) :
    replay idleLevels (commandEvents i b) = commandLines i idleLevels := by
  cases i with
  | refresh => exact replay_refreshEvents _
  | _ => rfl

/-- From idle lines every command ends with idle lines. -/
theorem commandLines_idle (i : Instr) : commandLines i idleLevels = idleLevels := by
  cases i <;> rfl

/-! The sampling observer. -/

theorem sample_append (edge : Bool) (l : Lines) (records : List (List Bool)) (a b : List Event) :
    sample edge l records (a ++ b) = sample edge (replay l a) (sample edge l records a) b := by
  induction a generalizing l records with
  | nil => rfl
  | cons e a ih => exact ih _ _

theorem recordBit_append (b : Bool) (records : List (List Bool)) (r : List Bool) :
    recordBit b (records ++ [r]) = records ++ [r ++ [b]] := by
  induction records with
  | nil => rfl
  | cons r' records ih =>
    cases records with
    | nil => rfl
    | cons r'' records => exact congrArg (r' :: ·) ih

/-- One bit sent while chip-enable is up is one bit more in the newest record: at CLK's rise as at its fall DATA is the
bit. -/
theorem sample_bitEvents (edge v d : Bool) (records : List (List Bool)) :
    sample edge ⟨d, false, true⟩ records (bitEvents v) = recordBit v records := by
  cases edge <;> simp [bitEvents, sample, opensRecord, samplesData, levelsAfter]

theorem sample_bits (edge d : Bool) (bits : List Bool) (records : List (List Bool)) (r : List Bool) :
    sample edge ⟨d, false, true⟩ (records ++ [r]) (bits.flatMap bitEvents) = records ++ [r ++ bits] := by
  induction bits generalizing d r with
  | nil => rw [List.append_nil]; rfl
  | cons v bits ih =>
    have next : replay ⟨d, false, true⟩ (bitEvents v) = ⟨v, false, true⟩ := rfl
    rw [List.flatMap_cons, sample_append, sample_bitEvents, recordBit_append, next, ih, List.append_assoc]
    rfl

/-- The frames are the bits of the two blocks (R73). -/
theorem frameOne_eq (xfer : Buffer) : frameOne xfer = blockBits xfer blockOne := rfl

theorem frameTwo_eq (xfer : Buffer) : frameTwo xfer = blockBits xfer blockTwo := rfl

/-- From idle lines the observer gets the two frames, whichever edge it samples at (R123): each rise of chip-enable
opens a record, and the block that follows fills it. -/
theorem sample_refreshEvents (edge : Bool) (xfer : Buffer) :
    sample edge idleLevels [] (refreshEvents xfer) = [frameOne xfer, frameTwo xfer] := by
  have opened : sample edge idleLevels [] [.set .ce true] = [] ++ [[]] := rfl
  have reopened (d : Bool) (r : List Bool) : sample edge ⟨d, false, true⟩ ([] ++ [r]) gapEvents = [r] ++ [[]] := rfl
  rw [refreshEvents_eq, blockEvents_eq, blockEvents_eq, ← frameOne_eq, ← frameTwo_eq, sample_append, opened,
    show replay idleLevels [.set .ce true] = ⟨false, false, true⟩ from rfl, sample_append, sample_bits, replay_bits,
    sample_append, reopened, show ∀ d, replay ⟨d, false, true⟩ gapEvents = ⟨false, false, true⟩ from fun _ => rfl,
    sample_append, sample_bits, replay_bits]
  rfl

/-- An event that changes no line leaves the levels and opens and samples nothing. -/
theorem sample_step_of_not_changesWire {edge : Bool} {l : Lines} {e : Event} (redundant : changesWire l e = false) :
    levelsAfter l e = l ∧ opensRecord l e = false ∧ samplesData edge l e = false := by
  obtain ⟨data, clk, ce⟩ := l
  cases e with
  | wait t => cases redundant
  | set line v =>
    cases line with
    | data => simp_all [changesWire, levelsAfter, opensRecord, samplesData]
    | clk =>
      obtain rfl : v = clk := by simpa [changesWire] using redundant
      cases v <;> cases edge <;> exact ⟨rfl, rfl, rfl⟩
    | ce =>
      obtain rfl : v = ce := by simpa [changesWire] using redundant
      cases v <;> exact ⟨rfl, rfl, rfl⟩

/-! Sums over a trace. -/

/-- A number that adds up over a trace, and is the same for every bit sent, is the sum of 112 of those and of the parts
of R119 that are the same in every REFRESH. -/
theorem sum_refreshEvents {f : List Event → Nat} {n : Nat} (append : ∀ a b, f (a ++ b) = f a + f b)
    (bit : ∀ v, f (bitEvents v) = n) (xfer : Buffer) :
    f (refreshEvents xfer) = f [.set .ce true] + 112 * n + f gapEvents + f [.set .data false, .set .ce false] := by
  have bits (l : List Bool) : f (l.flatMap bitEvents) = l.length * n := by
    induction l with
    | nil => have := append [] []; rw [List.append_nil] at this; rw [List.flatMap_nil, List.length_nil]; omega
    | cons v l ih => rw [List.flatMap_cons, append, bit, ih, List.length_cons, Nat.succ_mul, Nat.add_comm]
  rw [refreshEvents_eq, append, append, append, append, blockEvents_eq, blockEvents_eq, bits, bits, blockBits_length,
    blockBits_length, show 8 * blockOne.length = 56 from rfl, show 8 * blockTwo.length = 56 from rfl]
  omega

theorem holdTime_append (cfg : Config) (a b : List Event) :
    holdTime cfg (a ++ b) = holdTime cfg a + holdTime cfg b := by
  induction a with
  | nil => exact (Nat.zero_add _).symm
  | cons e a ih =>
    cases e with
    | set line v => exact ih
    | wait t => cases t <;> simp only [List.cons_append, holdTime, ih, Nat.add_assoc]

/-! Where the blocks begin and end in the trace. -/

/-- A block ends with the clock pulse of its last byte's bit 7. -/
theorem drop_blockEvents (xfer : Buffer) (block : List Slot) (i : Slot) :
    (blockEvents xfer (block ++ [i])).drop (48 * block.length + 44) =
      [.set .clk true, .wait .step, .set .clk false, .wait .step] := by
  have parts : blockEvents xfer (block ++ [i]) = blockEvents xfer block ++ byteEvents (getByte xfer i) := by
    simp [blockEvents]
  rw [parts, ← List.drop_drop, List.drop_left' (blockEvents_length xfer block)]
  rfl

theorem take_refreshEvents (xfer : Buffer) :
    (refreshEvents xfer).take 8 = [.set .ce true, .set .data ((getByte xfer 0).getLsbD 0), .wait .step, .set .clk true,
      .wait .step, .set .clk false, .wait .step, .set .data ((getByte xfer 0).getLsbD 1)] := rfl

theorem drop_refreshEvents_blockOne (xfer : Buffer) :
    (refreshEvents xfer).drop 335 = [Event.set .clk false, .wait .step] ++ (gapEvents ++
      (blockEvents xfer blockTwo ++ [Event.set .data false, .set .ce false])) := by
  have last : (blockEvents xfer blockOne).drop 334 = [.set .clk false, .wait .step] := by
    rw [show 334 = 332 + 2 from rfl, ← List.drop_drop]
    exact congrArg (List.drop 2) (drop_blockEvents xfer [0, 1, 2, 3, 4, 5] 6)
  have inside : 334 ≤ (blockEvents xfer blockOne).length := by rw [blockEvents_length]; decide
  rw [refreshEvents_eq, List.singleton_append, List.drop_succ_cons, List.drop_append_of_le_length inside, last]

theorem drop_refreshEvents_blockTwo (xfer : Buffer) :
    (refreshEvents xfer).drop 675 =
      [.set .clk true, .wait .step, .set .clk false, .wait .step, .set .data false, .set .ce false] := by
  have parts : refreshEvents xfer = ([Event.set .ce true] ++ blockEvents xfer blockOne ++ gapEvents) ++
      (blockEvents xfer blockTwo ++ [Event.set .data false, .set .ce false]) := by
    simp only [refreshEvents_eq, List.append_assoc]
  have before : ([Event.set .ce true] ++ blockEvents xfer blockOne ++ gapEvents).length = 343 := by
    rw [List.length_append, List.length_append, blockEvents_length]; rfl
  have last : (blockEvents xfer blockTwo).drop 332 = [.set .clk true, .wait .step, .set .clk false, .wait .step] :=
    drop_blockEvents xfer [7, 8, 9, 10, 11, 12] 13
  have inside : 332 ≤ (blockEvents xfer blockTwo).length := by rw [blockEvents_length]; decide
  rw [parts, show 675 = 343 + 332 from rfl, ← List.drop_drop, List.drop_left' before,
    List.drop_append_of_le_length inside, last]
  rfl

end Sys2Proof.Laws

/-! The statements of 42_serial.md on the trace of a REFRESH and on what an observer samples. -/

namespace Sys2Proof.Proofs

open Sys2Proof.Machine Sys2Proof.Laws

/-- Settles O32: each count, and the time of the waits, adds up over the trace and is the same for every bit sent. -/
theorem refreshEventCounts : Obligations.RefreshEventCounts := by
  intro s
  have count (e : Event) (a b : List Event) : (a ++ b).count e = a.count e + b.count e := List.count_append
  have dataCount (a b : List Event) : (a ++ b).count (.set .data true) + (a ++ b).count (.set .data false) =
      (a.count (.set .data true) + a.count (.set .data false)) +
        (b.count (.set .data true) + b.count (.set .data false)) := by
    rw [count, count]; omega
  refine ⟨_, _, exec_refresh s, rfl, ?_, ?_, ?_, ?_, ?_, ?_, ?_, ?_, fun cfg => ?_⟩
  · exact sum_refreshEvents (n := 6) (fun _ _ => List.length_append) (fun _ => rfl) _
  · exact sum_refreshEvents (n := 1)
      (f := fun ev => ev.count (.set .data true) + ev.count (.set .data false)) dataCount (by decide) _
  · exact sum_refreshEvents (n := 1) (count _) (by decide) _
  · exact sum_refreshEvents (n := 1) (count _) (by decide) _
  · exact sum_refreshEvents (n := 0) (count _) (by decide) _
  · exact sum_refreshEvents (n := 0) (count _) (by decide) _
  · exact sum_refreshEvents (n := 3) (count _) (by decide) _
  · exact sum_refreshEvents (n := 0) (count _) (by decide) _
  · rw [sum_refreshEvents (n := 3 * tStep cfg) (holdTime_append cfg)]
    · simp only [gapEvents, holdTime]
      omega
    · intro v
      simp only [bitEvents, holdTime]
      omega

/-- Settles O33: the trace is cut at the clock pulse of each block's last bit. -/
theorem refreshTraceShape : Obligations.RefreshTraceShape := by
  intro s
  refine ⟨_, _, exec_refresh s, rfl, take_refreshEvents _, ?_, drop_refreshEvents_blockTwo _⟩
  rw [drop_refreshEvents_blockOne]
  rfl

/-- Settles O36, by induction over the trace: a `Set` that changes no line is not seen. -/
theorem redundantSetsAreInvisible : Obligations.RedundantSetsAreInvisible := by
  intro edge l records ev
  induction ev generalizing l records with
  | nil => exact ⟨rfl, rfl⟩
  | cons e ev ih =>
    rw [visible]
    split
    case isTrue shown => exact ih _ _
    case isFalse redundant =>
      obtain ⟨levels, opens, samples⟩ := sample_step_of_not_changesWire (edge := edge) (eq_false_of_ne_true redundant)
      simpa only [sample, replay, List.foldl_cons, levels, opens, samples, Bool.false_eq_true, if_false]
        using ih l records

end Sys2Proof.Proofs

/-! The bits of SEG that belong to no position (10_state.md R22): no command sets one. -/

namespace Sys2Proof.Laws

open Sys2Proof.Machine

/-- Bit `j` of slot `i` is one of the unused bits of R22. -/
def UnusedBit (i : Slot) (j : Fin 8) : Prop := 11 ≤ i.val ∨ (i = 10 ∧ j ≠ 0) ∨ (i = 6 ∧ j = 0)

/-- An unused bit is no bit of any position's cell. -/
theorem UnusedBit.ne_cellSlot {i : Slot} {j : Fin 8} (unused : UnusedBit i j) (p : Position) : i ≠ cellSlot p j := by
  unfold UnusedBit at unused
  unfold cellSlot
  split <;> simp only [slotOf, slotAbove, ne_eq, Fin.ext_iff] at * <;> omega

theorem byte_eq_zero_iff (b : Byte) : b = 0x00 ↔ ∀ j : Fin 8, b.getLsbD j.val = false :=
  ⟨fun zero _ => zero ▸ BitVec.getLsbD_zero, fun bits => byte_ext fun j => (bits j).trans BitVec.getLsbD_zero.symm⟩

/-- The model's predicate on bytes, said of bits. -/
theorem unusedBitsClear_iff (seg : Buffer) :
    UnusedBitsClear seg ↔ ∀ (i : Slot) (j : Fin 8), UnusedBit i j → (getByte seg i).getLsbD j.val = false := by
  simp only [UnusedBitsClear, byte_eq_zero_iff, and_FE_getLsbD, and_01_getLsbD, UnusedBit]
  constructor
  · rintro ⟨eleven, twelve, thirteen, ten, six⟩ i j (high | ⟨rfl, main⟩ | ⟨rfl, rfl⟩)
    · obtain rfl | rfl | rfl : i = 11 ∨ i = 12 ∨ i = 13 := by simp only [Fin.ext_iff]; omega
      · exact eleven j
      · exact twelve j
      · exact thirteen j
    · simpa [main] using ten j
    · simpa using six 0
  · intro clear
    refine ⟨fun j => clear 11 j (.inl (by decide)), fun j => clear 12 j (.inl (by decide)),
      fun j => clear 13 j (.inl (by decide)), fun j => ?_, fun j => ?_⟩
    · by_cases main : j = 0
      · simp [main]
      · rw [clear 10 j (.inr (.inl ⟨rfl, main⟩)), Bool.false_and]
    · by_cases low : j = 0
      · rw [clear 6 j (.inr (.inr ⟨rfl, low⟩)), Bool.false_and]
      · simp [low]

theorem unusedBitsClear_blankBuffer : UnusedBitsClear blankBuffer := by decide

theorem unusedBitsClear_setCharSeg (cfg : Config) (pos : Nat) (c : Byte) (dp : Bool) {b : Buffer}
    (clear : UnusedBitsClear b) : UnusedBitsClear (setCharSeg cfg pos c dp b) := by
  by_cases inRange : pos < 10
  · refine (unusedBitsClear_iff _).mpr fun i j unused => ?_
    rw [setCharSeg_getLsbD cfg ⟨pos, inRange⟩, if_neg (unused.ne_cellSlot _)]
    exact (unusedBitsClear_iff b).mp clear i j unused
  · rwa [setCharSeg_outOfRange cfg c dp b (Nat.not_lt.mp inRange)]

theorem unusedBitsClear_writeCells (cfg : Config) (cells : List (Nat × Byte × Bool)) {b : Buffer}
    (clear : UnusedBitsClear b) : UnusedBitsClear (writeCells cfg cells b) := by
  induction cells generalizing b with
  | nil => exact clear
  | cons cell cells ih => exact ih (unusedBitsClear_setCharSeg cfg cell.1 cell.2.1 cell.2.2 clear)

theorem unusedBitsClear_commandSeg (i : Instr) {b : Buffer} (clear : UnusedBitsClear b) :
    UnusedBitsClear (commandSeg i b) := by
  cases i with
  | init => exact unusedBitsClear_blankBuffer
  | clear => exact unusedBitsClear_blankBuffer
  | setchar pos c dp => exact unusedBitsClear_setCharSeg _ _ c dp clear
  | print start text => exact unusedBitsClear_writeCells _ _ unusedBitsClear_blankBuffer
  | refresh => exact clear

/-- A command that ends inside the stream keeps the invariant. -/
theorem inv_afterCommand {i : Instr} {s : State} (inv : Inv s) (inside : s.cp + commandLength i ≤ s.stream.length) :
    Inv (afterCommand i s) := by
  obtain ⟨idle, clear, wire, -⟩ := inv
  have lines : linesOf (afterCommand i s) = idleLevels := by rw [afterCommand_lines, idle, commandLines_idle]
  refine ⟨lines, unusedBitsClear_commandSeg i clear, ?_, inside⟩
  rw [lines, afterCommand_wire, replay_append, wire, idle, replay_commandEvents, commandLines_idle]

end Sys2Proof.Laws

/-! The statements of 10_state.md on the invariant. -/

namespace Sys2Proof.Proofs

open Sys2Proof.Machine Sys2Proof.Laws

/-- Settles O49: at reset SEG is blank, the lines idle, WIRE empty and cp 0. -/
theorem resetMeetsInv : Obligations.ResetMeetsInv :=
  fun _ _ => ⟨rfl, unusedBitsClear_blankBuffer, rfl, Nat.zero_le _⟩

/-- Settles O50: a step executes one command whose bytes stand in the stream at cp, and every such command keeps each
part of the invariant. -/
theorem stepKeepsInv : Obligations.StepKeepsInv := by
  intro s t inv next
  obtain ⟨i, rest, -, bytes, rfl⟩ := step_next next
  exact inv_afterCommand inv (cp_add_commandLength_le bytes)

/-- Settles O51: cp moves by the length of the command executed, which is between 1 and that of the longest. -/
theorem stepMovesForward : Obligations.StepMovesForward := by
  intro s t next
  obtain ⟨i, rest, wf, bytes, rfl⟩ := step_next next
  exact ⟨Nat.lt_add_of_pos_right (commandLength_pos i), Nat.add_le_add_left (commandLength_le_longestCommand wf) s.cp,
    cp_add_commandLength_le bytes, ⟨commandEvents i s.seg, rfl⟩, rfl⟩

end Sys2Proof.Proofs

/-! PRINT's cells: the loop writes positions below 10 in ascending order, so each at most once (40_framebuffer.md
R87). -/

namespace Sys2Proof.Laws

open Sys2Proof.Machine

/-- The loop starts at its position and stops at 10. -/
theorem position_of_mem_printRounds {text : List Byte} {fuel i pos : Nat} {cell : Nat × Byte × Bool}
    (mem : cell ∈ printRounds text fuel i pos) : pos ≤ cell.1 ∧ cell.1 < 10 := by
  induction fuel generalizing i pos with
  | zero => cases mem
  | succ fuel ih =>
    obtain ⟨left, inRange⟩ := inRange_of_mem_printRounds mem
    rw [printRounds_succ fuel left inRange] at mem
    obtain rfl | later := List.mem_cons.mp mem
    · exact ⟨Nat.le_refl _, inRange⟩
    · obtain ⟨low, high⟩ := ih later
      exact ⟨Nat.le_of_succ_le low, high⟩

theorem printRounds_pairwise (text : List Byte) (fuel i pos : Nat) :
    (printRounds text fuel i pos).Pairwise fun cell later => cell.1 ≠ later.1 := by
  induction fuel generalizing i pos with
  | zero => exact .nil
  | succ fuel ih =>
    rw [printRounds]
    split
    · exact .cons (fun later mem => Nat.ne_of_lt (position_of_mem_printRounds mem).1) (ih _ _)
    · exact .nil

section

variable (cfg : Config)

/-- A cell that no write names stays. -/
theorem foldl_screenWrite_notMem {cells : List (Nat × Byte × Bool)} {q : Position}
    (free : ∀ cell ∈ cells, q.val ≠ cell.1) (scr : Screen) : cells.foldl (screenWrite cfg) scr q = scr q := by
  induction cells generalizing scr with
  | nil => rfl
  | cons cell cells ih =>
    obtain ⟨notHead, notRest⟩ := List.forall_mem_cons.mp free
    rw [List.foldl_cons, ih notRest, screenWrite, if_neg notHead]

/-- A cell that one write names has that write's mask. -/
theorem foldl_screenWrite_mem {cells : List (Nat × Byte × Bool)} {q : Position} {c : Byte} {dp : Bool}
    (once : cells.Pairwise fun cell later => cell.1 ≠ later.1) (mem : (q.val, c, dp) ∈ cells) (scr : Screen) :
    cells.foldl (screenWrite cfg) scr q = cellMask cfg c dp := by
  induction cells generalizing scr with
  | nil => cases mem
  | cons cell cells ih =>
    obtain ⟨onceHead, onceRest⟩ := List.pairwise_cons.mp once
    rw [List.foldl_cons]
    obtain rfl | later := List.mem_cons.mp mem
    · rw [foldl_screenWrite_notMem cfg onceHead, screenWrite, if_pos rfl]
    · exact ih onceRest later _

end

/-- The screen after a PRINT: its cells written in order on a blank one. -/
theorem readMask_commandSeg_print (start : Byte) (text : List Byte) (b : Buffer) (q : Position) :
    readMask Config.chip (commandSeg (.print start text) b) q =
      (printCells start text).foldl (screenWrite Config.chip) blankScreen q := by
  rw [← screenOf_blankBuffer Config.chip, ← screenOf_writeCells]
  rfl

theorem readMask_print_of_mem {start : Byte} {text : List Byte} {q : Position} {c : Byte} {dp : Bool}
    (mem : (q.val, c, dp) ∈ printCells start text) (b : Buffer) :
    readMask Config.chip (commandSeg (.print start text) b) q = cellMask Config.chip c dp := by
  rw [readMask_commandSeg_print]
  exact foldl_screenWrite_mem _ (printRounds_pairwise text _ _ _) mem _

theorem readMask_print_of_notMem {start : Byte} {text : List Byte} {q : Position}
    (free : ∀ (c : Byte) (dp : Bool), (q.val, c, dp) ∉ printCells start text) (b : Buffer) :
    readMask Config.chip (commandSeg (.print start text) b) q = 0x00 := by
  rw [readMask_commandSeg_print]
  refine foldl_screenWrite_notMem _ (fun cell mem here => free cell.2.1 cell.2.2 ?_) _
  rwa [here]

/-- The SETCHARs of a list of cells make the SetChar calls of the list. -/
theorem afterCommands_setchars {cells : List (Nat × Byte × Bool)} (inRange : ∀ cell ∈ cells, cell.1 < 10) (s : State) :
    afterCommands (cells.map fun cell => .setchar (BitVec.ofNat 8 cell.1) cell.2.1 cell.2.2) s =
      { s with seg := writeCells Config.chip cells s.seg, cp := s.cp + 4 * cells.length } := by
  induction cells generalizing s with
  | nil => rfl
  | cons cell cells ih =>
    obtain ⟨head, rest⟩ := List.forall_mem_cons.mp inRange
    have position : (BitVec.ofNat 8 cell.1).toNat = cell.1 := by rw [BitVec.toNat_ofNat]; omega
    rw [List.map_cons, afterCommands_cons, afterCommand_eq_of_ne (by simp) (by simp), ih rest]
    simp only [commandSeg, commandLength, position, writeCells, List.foldl_cons, List.length_cons, Nat.mul_succ,
      Nat.add_assoc, Nat.add_comm 4]

/-- No command changes more of SEG the second time. -/
theorem commandSeg_idem (i : Instr) (b : Buffer) : commandSeg i (commandSeg i b) = commandSeg i b := by
  cases i with
  | setchar pos c dp => exact setCharSeg_idem _ _ c dp b
  | _ => rfl

theorem commandLines_idem (i : Instr) (l : Lines) : commandLines i (commandLines i l) = commandLines i l := by
  cases i <;> rfl

end Sys2Proof.Laws

/-! The statements of 40_framebuffer.md and 20_memory.md on cells, and on which command writes what. -/

namespace Sys2Proof.Proofs

open Sys2Proof.Machine Sys2Proof.Laws

/-- Settles O8: each part of the state is the function of the command that says so. -/
theorem onlyTheirCommandsWrite : Obligations.OnlyTheirCommandsWrite := by
  intro i s
  refine ⟨_, exec_eq i s, rfl, fun notRefresh => commandXfer_of_ne notRefresh _ _, fun refresh => ?_,
    fun notRefresh notInit => ?_, ⟨_, rfl⟩⟩
  · rw [refresh]; rfl
  · rw [afterCommand_lines, afterCommand_wire, commandLines_of_ne notRefresh notInit,
      commandEvents_of_ne notRefresh notInit, List.append_nil]
    exact ⟨rfl, rfl⟩

/-- Settles O10: SetChar done twice is SetChar done once, and the others do not read SEG. -/
theorem writersAreIdempotent : Obligations.WritersAreIdempotent := by
  intro i s notRefresh
  have seg : commandSeg i (afterCommand i s).seg = (afterCommand i s).seg := commandSeg_idem i s.seg
  refine ⟨_, _, exec_eq i s, exec_eq i _, seg, commandXfer_of_ne notRefresh _ _, commandLines_idem i _, rfl,
    fun notInit => ?_⟩
  rw [afterCommand_eq_of_ne notRefresh notInit (afterCommand i s), seg]

/-- Settles O16: the bits of a split cell are bits 7:1 of its slot and bit 0 of the slot above. -/
theorem splitWriteFootprint : Obligations.SplitWriteFootprint := by
  intro pos c dp s h above low slot next
  have inRange : pos.toNat < 10 := by omega
  obtain rfl : h = slotOf ⟨pos.toNat, inRange⟩ := Fin.ext slot
  obtain rfl : above = slotAbove ⟨pos.toNat, inRange⟩ := Fin.ext (by simp only [slotAbove]; omega)
  have split : 6 ≤ (slotOf ⟨pos.toNat, inRange⟩).val := by omega
  refine ⟨_, exec_setchar pos c dp s, ?_, fun i j notMain notB => ?_⟩
  · rw [slotAbove_getLsbD_zero Config.chip _ split]
    exact congrArg (BitVec.getLsbD · _) (readMask_setCharSeg_same Config.chip ⟨pos.toNat, inRange⟩ c dp s.seg)
  · refine (setCharSeg_getLsbD Config.chip ⟨pos.toNat, inRange⟩ c dp s.seg i j).trans (if_neg ?_)
    by_cases main : j = 0
    · rw [main, cellSlot_split_zero split]
      exact fun here => notB ⟨here, main⟩
    · rw [cellSlot_main _ main]
      exact fun here => notMain ⟨here, main⟩

/-- Settles O17: the two rules of a cell written and of a cell not written. -/
theorem writeReadsBackAndKeepsOthers : Obligations.WriteReadsBackAndKeepsOthers := by
  intro p pos c dp s at_p
  refine ⟨_, exec_setchar pos c dp s, ?_⟩
  rw [at_p]
  exact ⟨readMask_setCharSeg_same Config.chip p c dp s.seg,
    fun q other => readMask_setCharSeg_other Config.chip c dp s.seg other⟩

/-- Settles O19: the two SetChars write different bits of SEG, and cp moves by 8 in both orders. -/
theorem writeOrderDoesNotMatter : Obligations.WriteOrderDoesNotMatter := by
  intro pos pos' c c' dp dp' s other
  have apart : pos'.toNat ≠ pos.toNat := mt BitVec.eq_of_toNat_eq other.symm
  refine ⟨_, runCommands_eq _ s, (runCommands_eq _ s).trans (congrArg _ ?_)⟩
  simp only [afterCommands_cons, afterCommands_nil, afterCommand_eq_of_ne, ne_eq, reduceCtorEq, not_false_eq_true,
    commandSeg, commandLength, setCharSeg_comm Config.chip c' c dp' dp s.seg apart]

/-- Settles O21, by induction over the cells of the loop, whose positions are below 10. -/
theorem printIsClearThenSetchars : Obligations.PrintIsClearThenSetchars := by
  intro start text s
  have inRange (cell) (mem : cell ∈ printCells start text) : cell.1 < 10 := (position_of_mem_printRounds mem).2
  refine ⟨_, _, exec_eq _ s, runCommands_eq _ s, ?_⟩
  rw [afterCommands_cons, afterCommands_setchars inRange,
    afterCommand_eq_of_ne (by simp) (by simp), afterCommand_eq_of_ne (by simp) (by simp)]
  simp only [commandSeg, commandLength, Nat.add_assoc]

/-- Settles O22: the loop writes each position at most once, on a blank screen. -/
theorem printedCellsReadBack : Obligations.PrintedCellsReadBack := by
  intro start text s q
  exact ⟨_, exec_eq _ s, fun c dp mem => readMask_print_of_mem mem s.seg,
    fun free => readMask_print_of_notMem free s.seg⟩

/-- Settles O23: the loop of "12.3" writes three cells, the second with its decimal point. -/
theorem printTwelvePointThree : Obligations.PrintTwelvePointThree := by
  intro s
  have cells : printCells 0x00 [0x31, 0x32, 0x2E, 0x33] = [(0, 0x31, false), (1, 0x32, true), (2, 0x33, false)] := rfl
  refine ⟨_, exec_eq _ s, ?_, ?_, ?_, fun q high => readMask_print_of_notMem (fun c dp mem => ?_) s.seg⟩
  · rw [← cellMask_false]; exact readMask_print_of_mem (by rw [cells]; decide) s.seg
  · exact readMask_print_of_mem (q := 1) (c := 0x32) (dp := true) (by rw [cells]; decide) s.seg
  · rw [← cellMask_false]; exact readMask_print_of_mem (by rw [cells]; decide) s.seg
  · simp only [cells, List.mem_cons, Prod.mk.injEq, List.not_mem_nil, or_false] at mem
    omega

end Sys2Proof.Proofs

/-! The constraints on the open parameters (00_scope.md R8). -/

namespace Sys2Proof.Laws

open Sys2Proof.Machine

/-- A code that no row of the font table indexes is in none of its three ranges. -/
theorem hexIndex_eq_none_iff (c : Byte) :
    hexIndex c = none ↔ ¬ (0x30 ≤ c.toNat ∧ c.toNat ≤ 0x39) ∧ ¬ (0x41 ≤ c.toNat ∧ c.toNat ≤ 0x46) ∧
      ¬ (0x61 ≤ c.toNat ∧ c.toNat ≤ 0x66) := by
  refine ⟨fun none => ?_, fun ⟨notDigit, notUpper, notLower⟩ => hexIndex_none notDigit notUpper notLower⟩
  simp only [hexIndex] at none
  split_ifs at none with digit upper lower
  exact ⟨digit, upper, lower⟩

theorem namedMask_eq_none_iff (cfg : Config) (c : Byte) :
    namedMask cfg c = none ↔
      c ∉ ([0x48, 0x68, 0x4C, 0x6C, 0x50, 0x70, 0x55, 0x75, 0x2D, 0x5F, 0x3D] : List Byte) := by
  refine ⟨fun none named => ?_, namedMask_none cfg⟩
  simp only [List.mem_cons, List.not_mem_nil, or_false] at named
  obtain rfl | rfl | rfl | rfl | rfl | rfl | rfl | rfl | rfl | rfl | rfl := named <;> cases none

/-- A degree code is a listed code that no other row of the glyph table maps. -/
theorem isDegreeAlias_iff (cfg : Config) (c : Byte) :
    isDegreeAlias cfg c = true ↔ c ∈ cfg.degreeCodes ∧ hexIndex c = none ∧ namedMask cfg c = none := by
  simp only [isDegreeAlias, Bool.and_eq_true, decide_eq_true_eq, Option.isNone_iff_eq_none, and_assoc]

theorem splitPos_symm (cfg : Config) (j : Fin 8) : splitPos cfg (cfg.splitPlace.symm j) = j :=
  Equiv.apply_symm_apply _ j

/-- SPLIT_POS made total: B_BIT at the place that the spec leaves free. -/
def totalPlace (b : Fin 8) (place : Fin 8 → Fin 8) : Fin 8 → Fin 8 := fun k => if k = b then 0 else place k

theorem totalPlace_bijective {b : Fin 8} {place : Fin 8 → Fin 8} (nonzero : ∀ k : Fin 8, k ≠ b → place k ≠ 0)
    (injective : ∀ k l : Fin 8, k ≠ b → l ≠ b → place k = place l → k = l) :
    Function.Bijective (totalPlace b place) := by
  refine Finite.injective_iff_bijective.mp fun k l same => ?_
  unfold totalPlace at same
  split at same <;> split at same
  case isTrue.isTrue k_b l_b => exact k_b.trans l_b.symm
  case isTrue.isFalse k_b l_b => exact absurd same.symm (nonzero l l_b)
  case isFalse.isTrue k_b l_b => exact absurd same (nonzero k k_b)
  case isFalse.isFalse k_b l_b => exact injective k l k_b l_b same

theorem exists_splitPlace {b : Fin 8} {place : Fin 8 → Fin 8} (nonzero : ∀ k : Fin 8, k ≠ b → place k ≠ 0)
    (injective : ∀ k l : Fin 8, k ≠ b → l ≠ b → place k = place l → k = l) :
    ∃ split : Equiv.Perm (Fin 8), split b = 0 ∧ ∀ k : Fin 8, k ≠ b → split k = place k :=
  ⟨Equiv.ofBijective _ (totalPlace_bijective nonzero injective), if_pos rfl, fun _ notB => if_neg notB⟩

/-- A record with given parameters; the others, which no constraint concerns, are anything. -/
def configOf (cwA cwB : BitVec 3) (split : Equiv.Perm (Fin 8)) (dpPlace : Fin 7) (codes : List Byte) (ts tg : Nat) :
    Config :=
  { (default : Config) with
    cwA := cwA
    cwB := cwB
    splitPlace := split
    dpPlace := dpPlace
    degreeCodes := codes
    stepLessOne := ts - 1
    gapExcess := tg - ts - 1 }

end Sys2Proof.Laws

/-! The statements of 00_scope.md: the configuration records are the legal parameter sets. -/

namespace Sys2Proof.Proofs

open Sys2Proof.Machine Sys2Proof.Laws

/-- Settles O14: the constraints on bits hold because `splitPlace` is a permutation that sends B_BIT to 0. -/
theorem everyConfigIsLegal : Obligations.EveryConfigIsLegal := by
  intro cfg
  refine ⟨dpBit_ne_bBit cfg, fun k notB => mt (splitPos_eq_zero_iff cfg k).mp notB, fun j place => ?_,
    Nat.succ_pos _, by simp only [tGap]; omega, fun c degree => ?_⟩
  · refine ⟨cfg.splitPlace.symm j, ⟨cfg.splitPlace.symm.injective.ne place, splitPos_symm cfg j⟩, ?_⟩
    rintro k ⟨-, rfl⟩
    exact (Equiv.symm_apply_apply cfg.splitPlace k).symm
  · obtain ⟨-, notHex, unnamed⟩ := (isDegreeAlias_iff cfg c).mp degree
    obtain ⟨notDigit, notUpper, notLower⟩ := (hexIndex_eq_none_iff c).mp notHex
    exact ⟨notDigit, notUpper, notLower, (namedMask_eq_none_iff cfg c).mp unnamed⟩

/-- Settles O15: SPLIT_POS with B_BIT at 0 is a permutation, in which DP_BIT has a place other than 0. -/
theorem everyLegalSetIsAConfig : Obligations.EveryLegalSetIsAConfig := by
  intro cwA cwB b d place aliases ts tg d_ne_b nonzero injective unmapped ts_pos ts_lt
  obtain ⟨split, split_b, split_other⟩ := exists_splitPlace nonzero injective
  have split_d : split d ≠ 0 := by rw [split_other d d_ne_b]; exact nonzero d d_ne_b
  refine ⟨configOf cwA cwB split ((split d).pred split_d) aliases ts tg, rfl, rfl, ?_, ?_, split_other, fun c => ?_,
    ?_, ?_⟩
  · exact (Equiv.symm_apply_eq split).mpr split_b.symm
  · exact (Equiv.symm_apply_eq split).mpr (Fin.succ_pred _ split_d)
  · refine (isDegreeAlias_iff _ c).trans (and_iff_left_of_imp fun mem => ?_)
    obtain ⟨notDigit, notUpper, notLower, unnamed⟩ := unmapped c mem
    exact ⟨hexIndex_none notDigit notUpper notLower, namedMask_none _ unnamed⟩
  · simp only [tStep, configOf]; omega
  · simp only [tGap, tStep, configOf]; omega

end Sys2Proof.Proofs

/-! The encoder byte by byte: what a rotated byte carries, and how Unrotate gets the old byte back (41_encoder.md). -/

namespace Sys2Proof.Laws

open Sys2Proof.Machine

section

variable (own below above : Byte)

/-- The low five bits of a rotated byte: two of its own, three from the byte below. -/
theorem shiftUp_and_1F : ((own <<< 3) ||| (below >>> 5)) &&& 0x1F = ((own <<< 3) &&& 0x18) ||| (below >>> 5) :=
  byte_ext fun j => by fin_cases j <;> simp

/-- The carry is in the low three bits. -/
theorem shiftUp_and_07 : ((own <<< 3) ||| (below >>> 5)) &&& 0x07 = below >>> 5 :=
  byte_ext fun j => by fin_cases j <;> simp

/-- Shifting back loses the top three bits. -/
theorem shiftUp_shiftDown : ((own <<< 3) ||| (below >>> 5)) >>> 3 = own &&& 0x1F :=
  byte_ext fun j => by fin_cases j <;> simp

/-- They are found in the byte above. -/
theorem shiftUp_shiftDown_or_carry :
    (((own <<< 3) ||| (below >>> 5)) >>> 3) ||| ((((above <<< 3) ||| (own >>> 5)) <<< 5) &&& 0xE0) = own :=
  byte_ext fun j => by fin_cases j <;> simp

/-- A byte rotated up, bit by bit. -/
theorem shiftUp_getLsbD {j : Nat} (inByte : j < 8) :
    ((own <<< 3) ||| (below >>> 5)).getLsbD j = if 3 ≤ j then own.getLsbD (j - 3) else below.getLsbD (5 + j) := by
  rw [BitVec.getLsbD_or, BitVec.getLsbD_shiftLeft, BitVec.getLsbD_ushiftRight]
  by_cases high : 3 ≤ j
  · have out : below.getLsbD (5 + j) = false := BitVec.getLsbD_of_ge _ _ (by omega)
    simp [high, Nat.not_lt.mpr high, inByte, out]
  · simp [high, Nat.not_le.mp high]

theorem and_1F_eq_self_iff : own &&& 0x1F = own ↔ own >>> 5 = 0x00 := by
  have low : (own &&& 0x1F).toNat = own.toNat % 32 := Nat.and_two_pow_sub_one_eq_mod own.toNat 5
  have high : (own >>> 5).toNat = own.toNat / 32 := Nat.shiftRight_eq_div_pow own.toNat 5
  rw [← BitVec.toNat_inj, ← BitVec.toNat_inj, low, high, show (0x00 : Byte).toNat = 0 from rfl]
  omega

end

theorem getByte_unrotate_low (y : Buffer) {i : Slot} (low : i.val ≤ 6) : getByte (unrotate y) i = getByte y i := by
  obtain ⟨i, isLt⟩ := i
  simp only at low
  interval_cases i <;> rfl

theorem getByte_unrotate_mid (y : Buffer) {i : Slot} (low : 7 ≤ i.val) (high : i.val ≤ 12) :
    getByte (unrotate y) i = unrotateByte y i ⟨i.val + 1, by omega⟩ := by
  obtain ⟨i, isLt⟩ := i
  simp only at low high
  interval_cases i <;> rfl

theorem getByte_unrotate_last (y : Buffer) : getByte (unrotate y) 13 = getByte y 13 >>> 3 := rfl

/-- Step 2 undone gives bytes 0 to 12 back. -/
theorem getByte_unrotate_rotateSpan (x : Buffer) {i : Slot} (high : i.val ≤ 12) :
    getByte (unrotate (rotateSpan x)) i = getByte x i := by
  by_cases low : i.val ≤ 6
  · rw [getByte_unrotate_low _ low, getByte_rotateSpan_low x low]
  · have up : 7 ≤ i.val := Nat.not_le.mp low
    rw [getByte_unrotate_mid _ up high, unrotateByte,
      getByte_rotateSpan_high x (j := ⟨i.val - 1, by omega⟩) up (Nat.sub_add_cancel (by omega)),
      getByte_rotateSpan_high x (j := i) (Nat.le_succ_of_le up) rfl]
    exact shiftUp_shiftDown_or_carry _ _ _

/-- Byte 13 comes back without its top three bits, which the rotation drops. -/
theorem getByte_unrotate_rotateSpan_last (x : Buffer) :
    getByte (unrotate (rotateSpan x)) 13 = getByte x 13 &&& 0x1F := by
  rw [getByte_unrotate_last, getByte_rotateSpan_high x (j := 12) (by decide) rfl]
  exact shiftUp_shiftDown _ _

theorem unrotate_rotateSpan_iff (x : Buffer) : unrotate (rotateSpan x) = x ↔ getByte x 13 >>> 5 = 0x00 := by
  rw [← and_1F_eq_self_iff, ← getByte_unrotate_rotateSpan_last]
  refine ⟨fun same => by rw [same], fun last => buffer_ext fun i => ?_⟩
  by_cases high : i.val ≤ 12
  · exact getByte_unrotate_rotateSpan x high
  · obtain rfl : i = 13 := Fin.ext (by omega)
    exact last

/-! The encoder on SEG read as one bit string (20_memory.md R44): the rotation moves the bits from 56 on up by three,
and the control words take three places each. -/

/-- Bit `j` of slot `i` is bit `8 * i + j` of the string. -/
theorem segBit_eq (b : Buffer) {k : Fin 112} {i : Slot} {j : Nat} (place : k.val = 8 * i.val + j) (inByte : j < 8) :
    segBit b k = (getByte b i).getLsbD j := by
  have slot : (⟨k.val / 8, by omega⟩ : Slot) = i := Fin.ext (by simp only; omega)
  have bit : k.val % 8 = j := by omega
  rw [segBit, slot, bit]

/-- Two buffers with the same bit string are the same buffer. -/
theorem buffer_ext_segBit {a b : Buffer} (h : ∀ k, segBit a k = segBit b k) : a = b :=
  buffer_ext_getLsbD fun i j => by
    have bits := h ⟨8 * i.val + j.val, by omega⟩
    rwa [segBit_eq a rfl j.isLt, segBit_eq b rfl j.isLt] at bits

/-- Step 2 (R102) on the bit string. -/
theorem segBit_rotateSpan (x : Buffer) (k : Fin 112) :
    segBit (rotateSpan x) k = if k.val < 56 then segBit x k else segBit x ⟨k.val - 3, by omega⟩ := by
  unfold segBit
  split
  case isTrue low => rw [getByte_rotateSpan_low x (by simp only; omega)]
  case isFalse high =>
    rw [getByte_rotateSpan_high x (j := ⟨k.val / 8 - 1, by omega⟩) (by simp only; omega) (by simp only; omega),
      shiftUp_getLsbD _ _ (by omega)]
    split
    · exact (segBit_eq x (k := ⟨k.val - 3, by omega⟩) (by simp only; omega) (by omega)).symm
    · exact (segBit_eq x (k := ⟨k.val - 3, by omega⟩) (by simp only; omega) (by omega)).symm

section

variable (cfg : Config)

/-- Step 3 (R103) on the bit string. -/
theorem segBit_stampControl (x : Buffer) (k : Fin 112) :
    segBit (stampControl cfg x) k =
      if 53 ≤ k.val ∧ k.val < 56 then cfg.cwA.getLsbD (k.val - 53)
      else if 109 ≤ k.val then cfg.cwB.getLsbD (k.val - 109)
      else segBit x k := by
  have stamped := Proofs.controlWordsOverwriteTopBits cfg x ⟨k.val / 8, by omega⟩ ⟨k.val % 8, by omega⟩
  have wordA : (⟨k.val / 8, by omega⟩ : Slot) = 6 ∧ 5 ≤ k.val % 8 ↔ 53 ≤ k.val ∧ k.val < 56 := by
    simp only [Fin.ext_iff]; omega
  have wordB : (⟨k.val / 8, by omega⟩ : Slot) = 13 ∧ 5 ≤ k.val % 8 ↔ 109 ≤ k.val := by
    simp only [Fin.ext_iff]; omega
  simp only [wordA, wordB] at stamped
  refine stamped.trans ?_
  split_ifs with inA inB
  · rw [show k.val % 8 - 5 = k.val - 53 by omega]
  · rw [show k.val % 8 - 5 = k.val - 109 by omega]
  · rfl

/-- Encode on the bit string: the first 106 bits of SEG, in two runs of 53, each followed by its control word. -/
theorem segBit_encodeSeg_low (seg : Buffer) (k : Fin 112) (low : k.val < 53) :
    segBit (encodeSeg cfg seg) k = segBit seg k := by
  rw [encodeSeg, segBit_stampControl, if_neg (by omega), if_neg (by omega), segBit_rotateSpan, if_pos (by omega)]

theorem segBit_encodeSeg_wordA (seg : Buffer) (k : Fin 112) (low : 53 ≤ k.val) (high : k.val < 56) :
    segBit (encodeSeg cfg seg) k = cfg.cwA.getLsbD (k.val - 53) := by
  rw [encodeSeg, segBit_stampControl, if_pos ⟨low, high⟩]

theorem segBit_encodeSeg_high (seg : Buffer) (k : Fin 112) (low : 56 ≤ k.val) (high : k.val < 109) :
    segBit (encodeSeg cfg seg) k = segBit seg ⟨k.val - 3, by omega⟩ := by
  rw [encodeSeg, segBit_stampControl, if_neg (by omega), if_neg (by omega), segBit_rotateSpan, if_neg (by omega)]

theorem segBit_encodeSeg_wordB (seg : Buffer) (k : Fin 112) (low : 109 ≤ k.val) :
    segBit (encodeSeg cfg seg) k = cfg.cwB.getLsbD (k.val - 109) := by
  rw [encodeSeg, segBit_stampControl, if_neg (by omega), if_pos low]

/-- Two encodings agree exactly when the first 106 bits do. -/
theorem encodeSeg_eq_iff (a b : Buffer) :
    encodeSeg cfg a = encodeSeg cfg b ↔ ∀ k : Fin 112, k.val < 106 → segBit a k = segBit b k := by
  constructor
  · intro same k used
    by_cases low : k.val < 53
    · rw [← segBit_encodeSeg_low cfg a k low, same, segBit_encodeSeg_low cfg b k low]
    · have moved (seg : Buffer) := segBit_encodeSeg_high cfg seg ⟨k.val + 3, by omega⟩ (by simp only; omega)
        (by simp only; omega)
      exact (moved a).symm.trans (same ▸ moved b)
  · intro agree
    refine buffer_ext_segBit fun k => ?_
    by_cases low : k.val < 53
    · rw [segBit_encodeSeg_low cfg a k low, segBit_encodeSeg_low cfg b k low, agree k (by omega)]
    · by_cases wordA : k.val < 56
      · rw [segBit_encodeSeg_wordA cfg a k (by omega) wordA, segBit_encodeSeg_wordA cfg b k (by omega) wordA]
      · by_cases high : k.val < 109
        · rw [segBit_encodeSeg_high cfg a k (by omega) high, segBit_encodeSeg_high cfg b k (by omega) high,
            agree _ (by simp only; omega)]
        · rw [segBit_encodeSeg_wordB cfg a k (by omega), segBit_encodeSeg_wordB cfg b k (by omega)]

end

/-- A frame is 56 bits of XFER read as one string. -/
theorem frameOne_eq_segBits (xfer : Buffer) :
    frameOne xfer = (List.finRange 56).map fun t => segBit xfer ⟨t.val, by omega⟩ := rfl

theorem frameTwo_eq_segBits (xfer : Buffer) :
    frameTwo xfer = (List.finRange 56).map fun t => segBit xfer ⟨56 + t.val, by omega⟩ :=
  List.map_congr_left fun t _ =>
    (segBit_eq xfer (k := ⟨56 + t.val, by omega⟩) (by simp only; omega) (Nat.mod_lt _ (by decide))).symm

/-- A list of 56 bits as 53 and 3. -/
theorem map_finRange_56 (f : Fin 56 → Bool) :
    (List.finRange 56).map f =
      ((List.finRange 53).map fun t => f ⟨t.val, by omega⟩) ++ [f 53, f 54, f 55] := by
  rw [← List.ofFn_eq_map, ← List.ofFn_eq_map]
  exact List.ofFn_add (n := 53) (m := 3)

/-- The stream theorem of R105. -/
theorem frameOne_encodeSeg (cfg : Config) (seg : Buffer) :
    frameOne (encodeSeg cfg seg) =
      ((List.finRange 53).map fun k => segBit seg ⟨k.val, by omega⟩) ++ wordBits cfg.cwA := by
  rw [frameOne_eq_segBits, map_finRange_56]
  refine congrArg₂ _ (List.map_congr_left fun t _ => segBit_encodeSeg_low cfg seg _ t.isLt) ?_
  rw [segBit_encodeSeg_wordA _ _ _ (by decide) (by decide), segBit_encodeSeg_wordA _ _ _ (by decide) (by decide),
    segBit_encodeSeg_wordA _ _ _ (by decide) (by decide)]
  rfl

theorem frameTwo_encodeSeg (cfg : Config) (seg : Buffer) :
    frameTwo (encodeSeg cfg seg) =
      ((List.finRange 53).map fun k => segBit seg ⟨53 + k.val, by omega⟩) ++ wordBits cfg.cwB := by
  rw [frameTwo_eq_segBits, map_finRange_56]
  refine congrArg₂ _ (List.map_congr_left fun t _ => ?_) ?_
  · rw [segBit_encodeSeg_high _ _ _ (by simp only; omega) (by simp only; omega)]
    exact congrArg (segBit seg) (Fin.ext (by simp only; omega))
  · rw [segBit_encodeSeg_wordB _ _ _ (by decide), segBit_encodeSeg_wordB _ _ _ (by decide),
      segBit_encodeSeg_wordB _ _ _ (by decide)]
    rfl

/-- Of a buffer whose unused bits are clear, no bit from 104 on is set. -/
theorem segBit_of_unusedBitsClear {b : Buffer} (clear : UnusedBitsClear b) {k : Fin 112} (high : 104 ≤ k.val) :
    segBit b k = false :=
  (unusedBitsClear_iff b).mp clear ⟨k.val / 8, by omega⟩ ⟨k.val % 8, by omega⟩ (.inl (by simp only; omega))

/-- Such buffers are encoded without loss. -/
theorem encodeSeg_injective_of_unusedBitsClear (cfg : Config) {a b : Buffer} (clearA : UnusedBitsClear a)
    (clearB : UnusedBitsClear b) (same : encodeSeg cfg a = encodeSeg cfg b) : a = b := by
  refine buffer_ext_segBit fun k => ?_
  by_cases used : k.val < 106
  · exact (encodeSeg_eq_iff cfg a b).mp same k used
  · rw [segBit_of_unusedBitsClear clearA (by omega), segBit_of_unusedBitsClear clearB (by omega)]

end Sys2Proof.Laws

/-! The statements of 41_encoder.md on Encode as a whole, and of 42_serial.md on what reaches the observer. -/

namespace Sys2Proof.Proofs

open Sys2Proof.Machine Sys2Proof.Laws

/-- Settles O27: the stamp over the rotation, byte by byte. -/
theorem encodeClosedForm : Obligations.EncodeClosedForm := by
  intro cfg seg i
  refine ⟨fun five => ?_, ?_, fun j seven twelve below => ?_, ?_⟩ <;> rw [encodeSeg, getByte_stampControl]
  · rw [if_neg (Fin.ne_of_val_ne (by omega)),
      if_neg (Fin.ne_of_val_ne (by omega)), getByte_rotateSpan_low seg (by omega)]
  · rw [if_pos rfl, getByte_rotateSpan_low seg (by decide)]
    rfl
  · rw [if_neg (Fin.ne_of_val_ne (by omega)),
      if_neg (Fin.ne_of_val_ne (by omega)), getByte_rotateSpan_high seg seven below]
  · rw [if_neg (by decide), if_pos rfl, getByte_rotateSpan_high seg (j := 12) (by decide) rfl, stampWord,
      shiftUp_and_1F]

/-- Settles O28. -/
theorem framesCarryTheBuffer : Obligations.FramesCarryTheBuffer :=
  fun cfg seg => ⟨frameOne_encodeSeg cfg seg, frameTwo_encodeSeg cfg seg⟩

/-- Settles O29: each of the first 106 bits has its place in the encoding, and the other places hold control words. -/
theorem encodeDropsOnlyTheLastSixBits : Obligations.EncodeDropsOnlyTheLastSixBits := encodeSeg_eq_iff

/-- Settles O30: the three bits that a byte sends up are found in the byte above; byte 13 has none above it. -/
theorem unrotateRestores : Obligations.UnrotateRestores := by
  intro x
  refine ⟨fun i => getByte_unrotate_rotateSpan x, getByte_unrotate_rotateSpan_last x, ?_, unrotate_rotateSpan_iff x⟩
  rw [getByte_rotateSpan_high x (j := 6) (by decide) rfl, shiftUp_and_07]

/-- Settles O34: the observer gets the frames of XFER (R123), and they carry SEG (R105). -/
theorem observerReceivesTheBuffer : Obligations.ObserverReceivesTheBuffer := by
  intro edge s idle
  refine ⟨_, _, exec_refresh s, rfl, sample_refreshEvents edge _, (sample_refreshEvents edge _).trans ?_⟩
  rw [frameOne_encodeSeg, frameTwo_encodeSeg]

end Sys2Proof.Proofs

/-! Runs of commands: what they append to WIRE, and what they do not depend on. -/

namespace Sys2Proof.Laws

open Sys2Proof.Machine

/-- From idle lines, commands without REFRESH append only events that leave the lines idle and record nothing. -/
theorem quiet_afterCommands {is : List Instr} (quiet : .refresh ∉ is) {s : State} (idle : linesOf s = idleLevels) :
    linesOf (afterCommands is s) = idleLevels ∧
      ∃ ev, (afterCommands is s).wire = s.wire ++ ev ∧ replay idleLevels ev = idleLevels ∧
        ∀ edge records, sample edge idleLevels records ev = records := by
  induction is generalizing s with
  | nil => exact ⟨idle, [], (List.append_nil _).symm, rfl, fun _ _ => rfl⟩
  | cons i is ih =>
    obtain ⟨notHead, notRest⟩ := not_or.mp (mt List.mem_cons.mpr quiet)
    have idleAfter : linesOf (afterCommand i s) = idleLevels := by rw [afterCommand_lines, idle, commandLines_idle]
    obtain ⟨idleEnd, ev, wire, levels, silent⟩ := ih notRest idleAfter
    have levelsHead : replay idleLevels (commandEvents i s.seg) = idleLevels := by
      rw [replay_commandEvents, commandLines_idle]
    refine ⟨idleEnd, commandEvents i s.seg ++ ev, ?_, ?_, fun edge records => ?_⟩
    · rw [afterCommands_cons, wire, afterCommand_wire, List.append_assoc]
    · rw [replay_append, levelsHead, levels]
    · have silentHead : sample edge idleLevels records (commandEvents i s.seg) = records := by
        cases i with
        | refresh => exact absurd rfl notHead
        | init => cases edge <;> rfl
        | _ => rfl
      rw [sample_append, levelsHead, silentHead, silent]

/-- Another XFER at the start of a run is another XFER at its end, or the same, and nothing else (R25). -/
theorem afterCommands_xfer (is : List Instr) (s : State) (x : Buffer) :
    ∃ y, afterCommands is { s with xfer := x } = { afterCommands is s with xfer := y } ∧
      (x = s.xfer ∨ .refresh ∈ is → y = (afterCommands is s).xfer) := by
  induction is generalizing s x with
  | nil => exact ⟨x, rfl, fun same => same.resolve_right List.not_mem_nil⟩
  | cons i is ih =>
    obtain ⟨y, run, same⟩ := ih (afterCommand i s) (commandXfer i s.seg x)
    refine ⟨y, run, fun either => same ?_⟩
    obtain rfl | mem := either
    · exact .inl rfl
    · obtain rfl | later := List.mem_cons.mp mem
      · exact .inl rfl
      · exact .inr later

/-- Runs from states with the same SEG and the same lines leave the same SEG and the same lines and append the same
events. -/
theorem afterCommands_congr (is : List Instr) {s u : State} (seg : s.seg = u.seg) (lines : linesOf s = linesOf u) :
    (afterCommands is s).seg = (afterCommands is u).seg ∧ linesOf (afterCommands is s) = linesOf (afterCommands is u) ∧
      ∃ ev, (afterCommands is s).wire = s.wire ++ ev ∧ (afterCommands is u).wire = u.wire ++ ev := by
  induction is generalizing s u with
  | nil => exact ⟨seg, lines, [], (List.append_nil _).symm, (List.append_nil _).symm⟩
  | cons i is ih =>
    obtain ⟨segEnd, linesEnd, ev, wire, wire'⟩ := ih (s := afterCommand i s) (u := afterCommand i u)
      (congrArg (commandSeg i) seg) (congrArg (commandLines i) lines)
    refine ⟨segEnd, linesEnd, commandEvents i s.seg ++ ev, ?_, ?_⟩
    · rw [afterCommands_cons, wire, afterCommand_wire, List.append_assoc]
    · rw [afterCommands_cons, wire', afterCommand_wire, List.append_assoc, seg]

/-- What holds of every reachable state: the invariant, and the stream handed over. -/
theorem reachable_inv {stream : List Byte} {s : State} (reachable : Reachable stream s) :
    Inv s ∧ s.stream = stream := by
  induction reachable with
  | start x => exact ⟨Proofs.resetMeetsInv x stream, rfl⟩
  | next s t _ next ih =>
    obtain ⟨inv, same⟩ := ih
    obtain ⟨-, -, -, -, kept⟩ := Proofs.stepMovesForward s t next
    exact ⟨Proofs.stepKeepsInv s t inv next, kept.trans same⟩

end Sys2Proof.Laws

/-! The statements on runs: 10_state.md R25, 43_init.md R136, 70_reset_and_hazards.md R159, and reachable states. -/

namespace Sys2Proof.Proofs

open Sys2Proof.Machine Sys2Proof.Laws

/-- Settles O35: the commands before the REFRESH record nothing, by induction, and leave the lines idle. -/
theorem onlyTheFinalSegIsTransmitted : Obligations.OnlyTheFinalSegIsTransmitted := by
  intro edge is s idle quiet
  obtain ⟨-, ev, wire, levels, silent⟩ := quiet_afterCommands quiet idle
  refine ⟨_, ev ++ refreshEvents (encodeSeg Config.chip (afterCommands is s).seg), runCommands_eq _ s, ?_, ?_⟩ <;>
    rw [afterCommands_append, afterCommands_cons, afterCommands_nil]
  · rw [afterCommand_wire, wire, List.append_assoc]
    rfl
  · rw [sample_append, levels, silent, sample_refreshEvents]
    rfl

/-- Settles O37, by induction over the run: REFRESH overwrites XFER and no command reads it. -/
theorem xferIsUnobservable : Obligations.XferIsUnobservable := by
  intro is s x
  obtain ⟨y, run, same⟩ := afterCommands_xfer is s x
  exact ⟨_, y, runCommands_eq is s, run ▸ runCommands_eq is _, fun mem => same (.inr mem)⟩

/-- Settles O38: INIT leaves the same SEG and lines from both states, and runs depend on nothing else. -/
theorem initForgetsThePast : Obligations.InitForgetsThePast := by
  intro is s u
  obtain ⟨seg, lines, ev, wire, wire'⟩ :=
    afterCommands_congr is (s := afterCommand .init s) (u := afterCommand .init u) rfl rfl
  refine ⟨_, _, _, runCommands_eq _ s, runCommands_eq _ u, seg, lines, wire.trans (List.append_assoc _ _ ev), ?_⟩
  exact wire'.trans (List.append_assoc _ _ ev)

/-- Settles O52: the invariant holds of every reachable state, and under it slot 13 is zero, so that the rotation drops
nothing. -/
theorem reachableStatesLoseNothing : Obligations.ReachableStatesLoseNothing := by
  intro stream s reachable
  obtain ⟨⟨idle, clear, -, -⟩, same⟩ := reachable_inv reachable
  have ⟨_, _, last, _, _⟩ := clear
  refine ⟨idle, clear, same, (unrotate_rotateSpan_iff s.seg).mpr (by rw [last]; rfl), fun b clearB alike => ?_⟩
  exact encodeSeg_injective_of_unusedBitsClear Config.chip clearB clear alike

end Sys2Proof.Proofs

/-! The decoder's end of the stream, and bytes placed in the stream. -/

namespace Sys2Proof.Laws

open Sys2Proof.Machine

/-- `endOfStream` is the verdict on no bytes and on nothing else. -/
theorem decode_eq_endOfStream_iff (bs : List Byte) : decode bs = .error .endOfStream ↔ bs = [] := by
  refine ⟨fun ended => ?_, fun none => none ▸ rfl⟩
  cases bs with
  | nil => rfl
  | cons op rest =>
    obtain rfl | rfl | rfl | rfl | rfl | reserved := opcode_cases op
    · cases ended
    · cases ended
    · match rest with
      | [] | [_] | [_, _] => cases ended
      | pos :: c :: flags :: rest =>
        rw [decode_setchar, decodeSetchar] at ended
        split at ended <;> cases ended
    · match rest with
      | [] | [_] => cases ended
      | start :: n :: rest =>
        rw [decode_print, decodePrint] at ended
        split at ended <;> cases ended
    · cases ended
    · rw [decode_reservedOpcode rest reserved] at ended
      cases ended

/-- A step is refused as `endOfStream` only where the decoder says so. -/
theorem step_eq_endOfStream_iff (s : State) :
    step s = .refused .endOfStream ↔ decode (fetch s) = .error .endOfStream := by
  refine ⟨fun refused => ?_, step_of_decode_error⟩
  cases verdict : decode (fetch s) with
  | ok result =>
    obtain ⟨i, n⟩ := result
    rw [step_of_decode_ok verdict] at refused
    cases refused
  | error e =>
    rw [step_of_decode_error verdict] at refused
    cases e <;> cases refused
    rfl

/-- Bytes after a command do not change what it decodes to. -/
theorem decode_append_of_ok {bs : List Byte} {i : Instr} {n : Nat} (more : List Byte) (ok : decode bs = .ok (i, n)) :
    decode (bs ++ more) = .ok (i, n) := by
  obtain ⟨wf, rfl, rest, rfl⟩ := eq_encode_of_decode ok
  rw [List.append_assoc, decode_encode_append _ wf]

/-- The bytes before the place, filled up with zeros where the stream is shorter. -/
theorem length_take_padded (start : Nat) (stream : List Byte) :
    ((stream ++ List.replicate (start - stream.length) 0x00).take start).length = start := by
  rw [List.length_take, List.length_append, List.length_replicate]
  omega

theorem take_placeBytes (start : Nat) (bytes stream : List Byte) :
    (placeBytes start bytes stream).take start =
      (stream ++ List.replicate (start - stream.length) 0x00).take start := by
  rw [placeBytes, List.append_assoc, List.take_left' (length_take_padded start stream)]

theorem drop_placeBytes (start : Nat) (bytes stream : List Byte) :
    (placeBytes start bytes stream).drop start = bytes ++ stream.drop (start + bytes.length) := by
  rw [placeBytes, List.append_assoc, List.drop_left' (length_take_padded start stream)]

/-- A table word is read as a command when the bytes it stands for decode to it. -/
theorem decode_tableCommand {nbits w : Nat} {i : Instr} (word : decodeTableWord nbits w = some i) :
    ∃ n, decode (tableCommand nbits w) = .ok (i, n) := by
  unfold decodeTableWord at word
  split at word <;> cases word
  exact ⟨_, ‹_›⟩

/-- The four bytes of a SETCHAR's table word, most significant first (R62). -/
theorem tableBytes_setchar (pos c : Byte) (dp : Bool) :
    tableBytes 32 (0x03000000 + pos.toNat * 0x10000 + c.toNat * 0x100 + dp.toNat) =
      [0x03, pos, c, if dp then 0x01 else 0x00] := by
  have bytes (w : Nat) : tableBytes 32 w =
      [BitVec.ofNat 8 (w >>> 24), BitVec.ofNat 8 (w >>> 16), BitVec.ofNat 8 (w >>> 8), BitVec.ofNat 8 (w >>> 0)] := rfl
  have opcode : (0x03 : Byte).toNat = 3 := rfl
  have flag : (if dp then 0x01 else 0x00 : Byte).toNat = dp.toNat := by cases dp <;> rfl
  have isBit : dp.toNat < 2 := Bool.toNat_lt dp
  have pos_lt : pos.toNat < 256 := pos.isLt
  have c_lt : c.toNat < 256 := c.isLt
  simp only [bytes, Nat.shiftRight_eq_div_pow, List.cons.injEq, and_true, ← BitVec.toNat_inj, BitVec.toNat_ofNat,
    opcode, flag]
  omega

end Sys2Proof.Laws

/-! The statements of 30_encoding.md on what decodes, what is refused and by which name, and on table words. -/

namespace Sys2Proof.Proofs

open Sys2Proof.Machine Sys2Proof.Laws

/-- Settles O40: the decoder's rule for each of the four, and then the step's. -/
theorem reservedEncodingsAreRefused : Obligations.ReservedEncodingsAreRefused := by
  intro s
  have executed {i : Instr} {n : Nat} (ok : decode (fetch s) = .ok (i, n)) :
      step s = exec i s ∧ ∃ t : State, step s = .next t :=
    ⟨(step_of_decode_ok ok).trans (exec_eq i s).symm, _, step_of_decode_ok ok⟩
  refine ⟨fun op rest bytes reserved => ?_, fun pos c flags rest bytes set => ?_, fun pos c dp rest bytes => ?_,
    fun start n text rest count bytes => ?_⟩
  · exact step_of_decode_error ((congrArg decode bytes).trans (decode_reservedOpcode rest reserved))
  · exact step_of_decode_error ((congrArg decode bytes).trans (decodeSetchar_reservedBits pos c rest set))
  · exact executed ((congrArg decode bytes).trans (decodeSetchar_flagByte pos c dp rest))
  · exact executed ((congrArg decode bytes).trans (decodePrint_append start rest count))

/-- Settles O41: no bytes are left exactly when cp is at or past the end; the cut-short cases are the decoder's. -/
theorem streamEndsAreRefusedByName : Obligations.StreamEndsAreRefusedByName := by
  intro s
  refine ⟨?_, fun rest bytes short => ?_, fun rest bytes short => ?_, fun start n text bytes short => ?_⟩
  · rw [step_eq_endOfStream_iff, decode_eq_endOfStream_iff, fetch, List.drop_eq_nil_iff]
  · exact step_of_decode_error ((congrArg decode bytes).trans (decodeSetchar_cutShort short))
  · exact step_of_decode_error ((congrArg decode bytes).trans (decodePrint_cutShort_header short))
  · exact step_of_decode_error ((congrArg decode bytes).trans (decodePrint_cutShort_text start short))

/-- Settles O42: exec moves cp by the command's length, which is the length decoded. -/
theorem stepExecutesTheDecodedCommand : Obligations.StepExecutesTheDecodedCommand := by
  intro s i n ok
  obtain ⟨-, length, -⟩ := eq_encode_of_decode ok
  exact ⟨_, (step_of_decode_ok ok).trans (exec_eq i s).symm, exec_eq i s, length ▸ afterCommand_cp i s⟩

/-- Settles O44, format by format. -/
theorem encodeOfDecode : Obligations.EncodeOfDecode := by
  intro bs i n ok
  obtain ⟨wf, rfl, rest, rfl⟩ := eq_encode_of_decode ok
  refine ⟨wf, rfl, ?_, List.take_left' (encode_length i)⟩
  rw [List.length_append, encode_length]
  exact Nat.le_add_right _ _

/-- Settles O45: the decoder evaluated on the thirteen byte sequences. -/
theorem decodingVectors : Obligations.DecodingVectors := by
  unfold Obligations.DecodingVectors
  decide

/-- Settles O46: the word's four bytes are a SETCHAR's. -/
theorem setcharTableWordFields : Obligations.SetcharTableWordFields := by
  intro pos c dp
  have decoded := decodeSetchar_flagByte pos c dp (List.replicate (longestCommand - (32 + 7) / 8) 0x00)
  rw [decodeTableWord, tableCommand, tableBytes_setchar, List.cons_append, decode_setchar]
  simp only [List.cons_append, List.nil_append, decoded]

/-- Settles O47: the bytes at cp are then the word's and what the stream holds after them, which decode to the word's
command. -/
theorem placedWordIsExecuted : Obligations.PlacedWordIsExecuted := by
  intro s nbits w i word
  obtain ⟨n, ok⟩ := decode_tableCommand word
  have placed : decode (fetch (s.withFetchWord nbits w)) = .ok (i, n) := by
    rw [fetch, State.withFetchWord, drop_placeBytes]
    exact decode_append_of_ok _ ok
  exact ⟨(step_of_decode_ok placed).trans (exec_eq _ _).symm, take_placeBytes _ _ _⟩

end Sys2Proof.Proofs
